-- ==== Sys2Proof/Word.lean ====
section
/-! DEFINITION. The two word types of OTP-DTC: the byte of a buffer and the 32-bit word of the register bus. -/

namespace Sys2Proof

/-- An 8-bit unsigned value, one byte of a buffer (00_scope.md R7). -/
abbrev Byte := BitVec 8

/-- A 32-bit word: the width of every register and of bus data (00_scope.md R5, 20_memory.md R61). -/
abbrev Word := BitVec 32

/-- An offset inside the 256-byte register window, the bus port's addr[7:0] (20_memory.md R61). -/
abbrev WindowOffset := BitVec 8

/-- A one-bit flag, zero-extended to a word: `zext_32` of a flag (00_scope.md R7). -/
def flagWord (b : Bool) : Word := if b then 1 else 0

end Sys2Proof
end

