-- ==== Sys2Proof/Syntax.lean ====
section
/-! DEFINITION. The command set of OTP-DTC v1: one constructor per row of the opcode table. -/

namespace Sys2Proof

/-- The four commands (30_encoding.md R82). A command carries no operand: every operand is taken from the block's
registers (30_encoding.md R87). -/
inductive Instr where
  /-- Completes with no effect but DONE (42_control.md R140). -/
  | nop
  /-- Dynamic truncation of DIGEST into OFFSET, BINCODE, CODE and OUT (40_truncation.md R100). -/
  | trunc
  /-- Length check and comparison of CAND with the expected code (41_validate.md R120). -/
  | validate
  /-- Erases the input buffers and the results (42_control.md R141). -/
  | clear
  deriving DecidableEq, Repr

end Sys2Proof
end

