-- ==== Sys2Proof/HostSyntax.lean ====
section
/-! DEFINITION. The abstract syntax of the host notation (30_encoding.md R88, R89): what a host program is made of,
before it is expanded into bus operations. -/

namespace Sys2Proof

/-- The register names a place may use (30_encoding.md R88). -/
inductive RegName where
  | id | ctrl | cfg | cmd | status | candlen | offset | bincode | code | out | cand | digest
  deriving DecidableEq, Repr

/-- `place := offset | name ['+' k]` (30_encoding.md R88). -/
inductive Place where
  | offset (off : WindowOffset)
  | name (n : RegName) (k : Nat)
  deriving DecidableEq, Repr

/-- One operation of a host program: `WR`, `RD` with its optional expected value, `POLL`, a command mnemonic, or a
pseudo-instruction (30_encoding.md R88, R89). -/
inductive HostLine where
  | wr (p : Place) (imm : Word)
  | rd (p : Place) (expect : Option Word)
  | poll (p : Place) (mask value : Word)
  | command (i : Instr)
  | setcfg (h d : Nat)
  | lddig (bytes : List Byte)
  | ldcand (bytes : List Byte)
  | wait
  | ack
  deriving DecidableEq, Repr

/-- `line := [label ':'] op [';' comment]` (30_encoding.md R88). No operation names a label. -/
structure SourceLine where
  label : Option String
  op : HostLine
  comment : Option String
  deriving DecidableEq, Repr

end Sys2Proof
end

