-- ==== Sys2Proof/WellFormed.lean ====
section
/-! DEFINITION. Which terms of the syntax the spec admits. A command has no operand, so every term of `Instr` is
well formed (30_encoding.md R87); the checks that can fail are those of the host notation (30_encoding.md R88, R89). -/

namespace Sys2Proof

/-- A command has no field that could hold a wrong value (30_encoding.md R81, R87). -/
def Instr.wellFormed : Instr → Bool
  | .nop => true
  | .trunc => true
  | .validate => true
  | .clear => true

/-- The window offset a name stands for (30_encoding.md R88, 10_state.md R22). -/
def RegName.windowBase : RegName → Nat
  | .id => 0x000
  | .ctrl => 0x004
  | .cfg => 0x008
  | .cmd => 0x00C
  | .status => 0x010
  | .candlen => 0x014
  | .offset => 0x018
  | .bincode => 0x01C
  | .code => 0x020
  | .out => 0x030
  | .cand => 0x040
  | .digest => 0x080

/-- In `name+k`, k is a multiple of 4 (30_encoding.md R88), and the place lies in the 256-byte window
(10_state.md R22). -/
def Place.wellFormed : Place → Bool
  | .offset _ => true
  | .name n k => k % 4 == 0 && n.windowBase + k < 256

/-- The bounds the host notation puts on its operands (30_encoding.md R88, R89): a `SETCFG` word fits in 32 bits,
`LDDIG` takes a multiple of 4 bytes and at most 64, `LDCAND` at most 255. -/
def HostLine.wellFormed : HostLine → Bool
  | .wr p _ => p.wellFormed
  | .rd p _ => p.wellFormed
  | .poll p _ _ => p.wellFormed
  | .command i => i.wellFormed
  | .setcfg h d => (d <<< 4 ||| h) < 2 ^ 32
  | .lddig bytes => bytes.length % 4 == 0 && bytes.length ≤ 64
  | .ldcand bytes => bytes.length ≤ 255
  | .wait => true
  | .ack => true

end Sys2Proof
end

