-- ==== Sys2Proof/Decode.lean ====
section
/-! DEFINITION. The CMD32 command word (30_encoding.md R80 to R83): the decoder, total on any word and any bytes,
which rejects by name, and the encoder. -/

namespace Sys2Proof

/-- Why a command word is no command (30_encoding.md R83). -/
inductive DecodeReject where
  /-- Fewer than the four bytes of a command word. -/
  | truncated
  /-- RSVD, bits 31:4, is not 0. -/
  | reservedBits
  /-- OPCODE is one of 0x3 to 0xE. -/
  | reservedOpcode
  deriving DecidableEq, Repr

/-- Field OPCODE of CMD32 (30_encoding.md R81). -/
def opcodeField (w : Word) : BitVec 4 := w.extractLsb' 0 4

/-- Field RSVD of CMD32 (30_encoding.md R81). -/
def rsvdField (w : Word) : BitVec 28 := w.extractLsb' 4 28

/-- The opcode map (30_encoding.md R82). -/
def decodeOpcode (op : BitVec 4) : Except DecodeReject Instr :=
  if op = 0x0 then .ok .nop
  else if op = 0x1 then .ok .trunc
  else if op = 0x2 then .ok .validate
  else if op = 0xF then .ok .clear
  else .error .reservedOpcode

/-- Decoding of one command word (30_encoding.md R81 to R83). -/
def decodeWord (w : Word) : Except DecodeReject Instr :=
  if rsvdField w = 0 then decodeOpcode (opcodeField w) else .error .reservedBits

/-- The word in four bytes, the byte at the lowest address in bits 7:0 (20_memory.md R65). -/
def wordOfBytes (b0 b1 b2 b3 : Byte) : Word := b3 ++ b2 ++ b1 ++ b0

/-- The four bytes of a word, lowest address first (20_memory.md R65). -/
def bytesOfWord (w : Word) : List Byte :=
  [w.extractLsb' 0 8, w.extractLsb' 8 8, w.extractLsb' 16 8, w.extractLsb' 24 8]

/-- Decoding of a command from bytes: every command is one 32-bit word (30_encoding.md R80). -/
def decode : List Byte → Except DecodeReject (Instr × List Byte)
  | b0 :: b1 :: b2 :: b3 :: rest =>
    match decodeWord (wordOfBytes b0 b1 b2 b3) with
    | .ok i => .ok (i, rest)
    | .error r => .error r
  | _ => .error .truncated

/-- The OPCODE of each command (30_encoding.md R82). -/
def Instr.opcode : Instr → BitVec 4
  | .nop => 0x0
  | .trunc => 0x1
  | .validate => 0x2
  | .clear => 0xF

/-- The command word: RSVD = 0 above the opcode (30_encoding.md R81, R82). -/
def encode (i : Instr) : Word := (0 : BitVec 28) ++ i.opcode

/-- The command word in the byte order of the bus lanes (20_memory.md R65). -/
def encodeBytes (i : Instr) : List Byte := bytesOfWord (encode i)

/-- The instruction the decoder reads from the low `nbits` bits of `w`, laid out as the bus carries them. A command
is one 32-bit word (30_encoding.md R80), so a value that needs more bits is no command. -/
def decodeTableWord (nbits w : Nat) : Option Instr :=
  if w % 2 ^ nbits < 2 ^ 32 then
    match decode (bytesOfWord (BitVec.ofNat 32 (w % 2 ^ nbits))) with
    | .ok (i, _) => some i
    | .error _ => none
  else none

end Sys2Proof
end

