-- ==== Sys2Proof/Config.lean ====
section
/-! DEFINITION. What an implementation of OTP-DTC fixes: the constants of 00_scope.md R5, the parameters
00_scope.md R6 leaves open, and the free values of this model. An `opaque` constant here has no body, so no proof
can depend on what it is. -/

namespace Sys2Proof.Config

/-- The identification constant, the ASCII characters of OTP1 (10_state.md R23). -/
def idWord : Word := 0x4F545031

/-- DMAX, CANDMAX and OUTMAX: the sizes of the three buffers in bytes (00_scope.md R5). -/
abbrev digestMax : Nat := 64
abbrev candMax : Nat := 16
abbrev outMax : Nat := 12

/-- The greatest number of bytes the hidden EXP holds (10_state.md R42). -/
abbrev expMax : Nat := 10

/-- The legal digit counts are 1 to 10 (00_scope.md R5, 10_state.md R27). -/
def digitsMin : Nat := 1
def digitsMax : Nat := 10

/-- The size of the register window in bytes (00_scope.md R5). -/
def windowSize : Nat := 256

/-- BASE is left open, a multiple of 256 (00_scope.md R6): which multiple. -/
opaque basePage : Nat

/-- BASE, the bus address of window offset 0 (00_scope.md R6). -/
def base : Nat := windowSize * basePage

/-- The latencies T_NOP, T_TRUNC, T_VALIDATE and T_CLEAR (00_scope.md R6): constants of the implementation, integers
of at least 1. No rule of the model depends on them (70_reset_and_hazards.md R207, R208). -/
opaque tNop : { n : Nat // 1 ≤ n }
opaque tTrunc : { n : Nat // 1 ≤ n }
opaque tValidate : { n : Nat // 1 ≤ n }
opaque tClear : { n : Nat // 1 ≤ n }

/-- FREE VALUE (assumption 4). The index of the last digest byte under HASHSEL = 0b11, which
40_truncation.md R101 never evaluates. It is read only in states no run reaches. -/
opaque reservedLastIndex : Fin digestMax

/-- FREE VALUE (assumption 2). Where both the engine and the host could move next and no schedule says which
(20_memory.md R62, 70_reset_and_hazards.md R207): whether the engine moves first. -/
opaque engineFirst : Nat → Bool

/-- FREE VALUE (assumption 6). Whether a write made while rst_n is 0 is answered ERROR:
70_reset_and_hazards.md R190 says such a write is ignored and states no response. -/
opaque resetWriteError : Nat → Bool

/-- The keyed hash outside the block (00_scope.md R4, R9; 93_implementation_defined.md U9): selector, secret, message.
Only the host's duties name it. -/
opaque hmac : BitVec 2 → List Byte → List Byte → List Byte

end Sys2Proof.Config
end

