-- ==== Sys2Proof/Machine/State.lean ====
section
/-! DEFINITION. The state of one OTP-DTC instance and of the agents around it: the record of 10_state.md R42, the
bus port, and the model's own fields that say which agent moves next. -/

namespace Sys2Proof.Machine

/-- Why the machine would stop with a fault: no reason exists. 60_exceptions.md R163: no synchronous exception, no
trap, no fault state and no stuck state. Every error of the block is a value in STATUS or a bus response. -/
inductive Fault where
  deriving DecidableEq, Repr

/-- Why the model would give a command no meaning. -/
inductive Refusal where
  /-- A command whose meaning is not written. No arm of `exec` raises it: all four commands have their meaning.
  Safe: a refusal proves nothing about the block. -/
  | notModelled (mnemonic : String)
  deriving DecidableEq, Repr

/-- The size of a bus access, 1, 2 or 4 bytes (20_memory.md R61). -/
inductive Size where
  | one | two | four
  deriving DecidableEq, Repr

/-- The bus response code (20_memory.md R61). -/
inductive Resp where
  | okay | error
  deriving DecidableEq, Repr

/-- What the bus port answers: a read carries rdata, a write only the response code (20_memory.md R63, R64). -/
inductive Response where
  | read (rdata : Word) (resp : Resp)
  | write (resp : Resp)
  deriving DecidableEq, Repr

/-- An operation the host makes on the bus port: a read or a write at a window offset (20_memory.md R61), or a
`POLL`, a read repeated until (rdata AND mask) = value (30_encoding.md R88). -/
inductive HostOp where
  | read (off : WindowOffset) (size : Size)
  | write (off : WindowOffset) (size : Size) (v : Word)
  | poll (off : WindowOffset) (mask value : Word)
  deriving DecidableEq, Repr

/-- Who moves at a step: the three agents of 00_scope.md section 6. -/
inductive Turn where
  /-- The host's next bus operation (20_memory.md R62). -/
  | host
  /-- The command engine, which completes a pending command (30_encoding.md R85). -/
  | engine
  /-- A clock edge at which rst_n is 0 (70_reset_and_hazards.md R190), with no bus operation. -/
  | reset
  /-- A clock edge at which rst_n is 0 and the host makes its next bus operation (70_reset_and_hazards.md R190). -/
  | resetBus
  deriving DecidableEq, Repr

/-- What a step does. -/
inductive Move where
  /-- No agent does anything. -/
  | idle
  /-- The host's bus operation (20_memory.md R62). -/
  | bus (op : HostOp)
  /-- The completion of the pending command (30_encoding.md R85). -/
  | completion (i : Instr)
  /-- A clock edge with rst_n = 0, with the bus operation the host makes at it, if any (70_reset_and_hazards.md R190). -/
  | reset (op : Option HostOp)
  deriving DecidableEq, Repr

/-- Which half of a command's life a call of `exec` is: the host's CMD write (30_encoding.md R84) or the engine's
completion (30_encoding.md R85). -/
inductive Mover where
  | host | engine
  deriving DecidableEq, Repr

/-- What a window offset holds (10_state.md R22); `out`, `cand` and `digest` carry the buffer index of their lowest
byte. -/
inductive Slot where
  | id | ctrl | cfg | cmd | status | candlen | offset | bincode | code
  | out (k : Nat) | cand (k : Nat) | digest (k : Nat)
  | reserved
  deriving DecidableEq, Repr

/-- The command error codes (60_exceptions.md R161). -/
inductive CmdError where
  | badcmd | badhash | baddigits
  deriving DecidableEq, Repr

/-- The state: the components of 10_state.md R42 in its order, then the bus response port (20_memory.md R61), then
the model's own fields. BUSY and irq are functions of the state (10_state.md R30, 60_exceptions.md R170). -/
structure State where
  /-- CTRL.IE (10_state.md R24). -/
  ie : Bool
  /-- CFG.HASHSEL (10_state.md R25, R26). -/
  hashsel : BitVec 2
  /-- CFG.DIGITS (10_state.md R25, R27). -/
  digits : BitVec 4
  /-- STATUS.DONE (10_state.md R31). -/
  done : Bool
  /-- STATUS.MATCH (10_state.md R32). -/
  matched : Bool
  /-- STATUS.WBUSY (10_state.md R33). -/
  wbusy : Bool
  /-- STATUS.ERR (10_state.md R34). -/
  err : BitVec 4
  /-- CANDLEN.LEN (10_state.md R35). -/
  candlen : BitVec 8
  /-- CAND[0..15] (10_state.md R36). -/
  cand : Vector Byte Config.candMax
  /-- DIGEST[0..63] (10_state.md R37). -/
  digest : Vector Byte Config.digestMax
  /-- OFFSET (10_state.md R38). -/
  offset : BitVec 4
  /-- BINCODE (10_state.md R38). -/
  bincode : BitVec 31
  /-- CODE (10_state.md R38, R42). -/
  code : BitVec 31
  /-- OUT[0..11] (10_state.md R39). -/
  out : Vector Byte Config.outMax
  /-- PENDING, hidden; `none` is NONE (10_state.md R40). -/
  pending : Option Instr
  /-- EXP, hidden, up to 10 bytes (10_state.md R41, R42). -/
  exp : List Byte
  /-- The bus response port: the answer of this step's bus operation, `none` where there was none (20_memory.md R61). -/
  response : Option Response
  /-- MODEL: the bus operations the host has still to make, oldest first. -/
  host : List HostOp
  /-- MODEL: who moves at the coming steps, the next first; where it is empty the choice is free (assumption 2). -/
  schedule : List Turn
  /-- MODEL: which half of a command's life is being executed (assumption 1). -/
  mover : Mover
  /-- MODEL: how many free values have been drawn (assumption 2, 6). -/
  draws : Nat
  deriving DecidableEq, Repr

/-- The state right after reset (10_state.md R43). EXP is unobservable and takes 0x00 bytes, the rule's simplest
value (assumption 3); the model's own fields hold no bus operation and no turn (assumption 7). -/
def State.reset : State where
  ie := false
  hashsel := 0
  digits := 6
  done := false
  matched := false
  wbusy := false
  err := 0
  candlen := 0
  cand := Vector.replicate Config.candMax 0
  digest := Vector.replicate Config.digestMax 0
  offset := 0
  bincode := 0
  code := 0
  out := Vector.replicate Config.outMax 0
  pending := none
  exp := List.replicate Config.expMax 0
  response := none
  host := []
  schedule := []
  mover := .host
  draws := 0

end Sys2Proof.Machine
end

