-- ==== Sys2Proof/Machine/Operands.lean ====
section
/-! DEFINITION. The operands of the commands (30_encoding.md R87): the hash selector, the digit count, the digest
bytes and the candidate, each read from the block's own registers. -/

namespace Sys2Proof.Machine

/-- Byte i of a buffer (00_scope.md R7). No rule reads a buffer at or past its size; the 0 there is never used by an
index the rules give. -/
def byteAt {n : Nat} (b : Vector Byte n) (i : Nat) : Byte := if h : i < n then b[i] else 0

/-- L - 1, the index of the last digest byte: L is 20, 32 or 64 (40_truncation.md R101, 10_state.md R26). L(0b11) is
never evaluated; in the states no run reaches where it would be, it is a free value (assumption 4). -/
def lastIndex (h : BitVec 2) : Nat :=
  if h = 0b00 then 19
  else if h = 0b01 then 31
  else if h = 0b10 then 63
  else Config.reservedLastIndex

/-- The selector is legal: not the reserved 0b11 (10_state.md R26). -/
def hashLegal (h : BitVec 2) : Bool := h != 0b11

/-- The digit count is legal: 1 to 10 (10_state.md R27). -/
def digitsLegal (d : BitVec 4) : Bool := Config.digitsMin ≤ d.toNat && d.toNat ≤ Config.digitsMax

/-- The operand CFG.DIGITS as the integer d (40_truncation.md R104). -/
def State.digitCount (s : State) : Nat := s.digits.toNat

/-- The operand CANDLEN.LEN as an integer (41_validate.md R121). -/
def State.candLength (s : State) : Nat := s.candlen.toNat

/-- Which commands have their CFG checked at acceptance (30_encoding.md R84): NOP and CLEAR do not. -/
def checksCfg : Instr → Bool
  | .nop => false
  | .trunc => true
  | .validate => true
  | .clear => false

/-- The configuration is one the command is accepted under (30_encoding.md R84). -/
def cfgLegalFor (i : Instr) (s : State) : Bool :=
  !checksCfg i || (hashLegal s.hashsel && digitsLegal s.digits)

end Sys2Proof.Machine
end

