-- ==== Sys2Proof/Machine/Flags.lean ====
section
/-! DEFINITION. STATUS and its flags BUSY, DONE, MATCH, WBUSY and ERR (10_state.md R29 to R34), the CFG word, and
the interrupt output (60_exceptions.md R170). -/

namespace Sys2Proof.Machine

/-- STATUS.BUSY is 1 exactly when PENDING is not NONE (10_state.md R30). -/
def State.busy (s : State) : Bool := s.pending.isSome

/-- The interrupt output, a function of the state (60_exceptions.md R170). -/
def State.irq (s : State) : Bool := s.ie && s.done

/-- The word a read of STATUS returns (20_memory.md R63, 10_state.md R29). -/
def State.statusWord (s : State) : Word :=
  s.err.setWidth 32 <<< 4 ||| flagWord s.wbusy <<< 3 ||| flagWord s.matched <<< 2 ||| flagWord s.done <<< 1
    ||| flagWord s.busy

/-- The word a read of CFG returns (20_memory.md R63, 10_state.md R25). -/
def State.cfgWord (s : State) : Word := s.digits.setWidth 32 <<< 4 ||| s.hashsel.setWidth 32

/-- The 4-bit value of an error code (60_exceptions.md R161). -/
def CmdError.bits : CmdError → BitVec 4
  | .badcmd => 1
  | .badhash => 2
  | .baddigits => 3

/-- The value of ERR when the last command was accepted (60_exceptions.md R161). -/
def errNone : BitVec 4 := 0

/-- A write of v to STATUS: bit 1 clears DONE, bit 3 clears WBUSY, every other bit is ignored (10_state.md R29). -/
def writeStatus (v : Word) (s : State) : State :=
  { s with
    done := s.done && !v.getLsbD 1
    wbusy := s.wbusy && !v.getLsbD 3 }

/-- A write dropped because BUSY is 1 sets WBUSY and nothing else (20_memory.md R70, 10_state.md R33). -/
def dropWrite (s : State) : State := { s with wbusy := true }

end Sys2Proof.Machine
end

