-- ==== Sys2Proof/Machine/Ops.lean ====
section
/-! DEFINITION. The shared operations: byte lanes and the register window (20_memory.md R63 to R70), the life of a
command (30_encoding.md R84, R85), the rejection of a command (60_exceptions.md R160), and reset
(70_reset_and_hazards.md R190). -/

namespace Sys2Proof.Machine

/-! ### Byte lanes -/

/-- `Lanes(B, k)`: the word of bytes k to k+3, byte k in bits 7:0 (20_memory.md R63, R65). -/
def lanes {n : Nat} (b : Vector Byte n) (k : Nat) : Word :=
  wordOfBytes (byteAt b k) (byteAt b (k + 1)) (byteAt b (k + 2)) (byteAt b (k + 3))

/-- A buffer word write: B[k+j] becomes bits 8j+7:8j of v, for j = 0 to 3 (20_memory.md R64, R65). -/
def putLanes {n : Nat} (b : Vector Byte n) (k : Nat) (v : Word) : Vector Byte n :=
  (((b.setIfInBounds k (v.extractLsb' 0 8)).setIfInBounds (k + 1) (v.extractLsb' 8 8)).setIfInBounds (k + 2)
    (v.extractLsb' 16 8)).setIfInBounds (k + 3) (v.extractLsb' 24 8)

/-! ### The register window -/

/-- What stands at a 4-byte-aligned window offset (10_state.md R22, the cases of 20_memory.md R63). -/
def slotOf (off : WindowOffset) : Slot :=
  let o := off.toNat
  if o = 0x000 then .id
  else if o = 0x004 then .ctrl
  else if o = 0x008 then .cfg
  else if o = 0x00C then .cmd
  else if o = 0x010 then .status
  else if o = 0x014 then .candlen
  else if o = 0x018 then .offset
  else if o = 0x01C then .bincode
  else if o = 0x020 then .code
  else if 0x030 ≤ o ∧ o ≤ 0x038 then .out (o - 0x030)
  else if 0x040 ≤ o ∧ o ≤ 0x04C then .cand (o - 0x040)
  else if 0x080 ≤ o ∧ o ≤ 0x0BC then .digest (o - 0x080)
  else .reserved

/-- Only 32-bit accesses at 4-byte-aligned offsets are served (20_memory.md R66). -/
def served (off : WindowOffset) (size : Size) : Bool := size == .four && off.toNat % 4 == 0

/-- The value a served read of a slot returns (20_memory.md R63): CMD and the reserved offsets read 0. -/
def readSlot (slot : Slot) (s : State) : Word :=
  match slot with
  | .id => Config.idWord
  | .ctrl => flagWord s.ie
  | .cfg => s.cfgWord
  | .cmd => 0
  | .status => s.statusWord
  | .candlen => s.candlen.setWidth 32
  | .offset => s.offset.setWidth 32
  | .bincode => s.bincode.setWidth 32
  | .code => s.code.setWidth 32
  | .out k => lanes s.out k
  | .cand k => lanes s.cand k
  | .digest k => lanes s.digest k
  | .reserved => 0

/-- `MemRead(off, size)` (20_memory.md R63): the answer of a host read. A read changes no state. -/
def memRead (off : WindowOffset) (size : Size) (s : State) : Response :=
  if served off size then .read (readSlot (slotOf off) s) .okay else .read 0 .error

/-- The response code of a host write (20_memory.md R64, R66). -/
def writeResp (off : WindowOffset) (size : Size) : Resp := if served off size then .okay else .error

/-- A write to an input register: dropped and flagged while BUSY, otherwise it stores and clears MATCH
(20_memory.md R64, R70, 10_state.md R32). -/
def writeInput (store : State → State) (s : State) : State :=
  if s.busy then dropWrite s else { store s with matched := false }

/-- A served write of v to a slot other than CMD (20_memory.md R64). ID, OFFSET, BINCODE, CODE and OUT are read-only
(R68) and the reserved offsets ignore writes (R67). CMD stores nothing itself (10_state.md R28): a write to it is
`commandWrite`. -/
def writeSlot (slot : Slot) (v : Word) (s : State) : State :=
  match slot with
  | .id => s
  | .ctrl => { s with ie := v.getLsbD 0 }
  | .cfg => writeInput (fun s => { s with hashsel := v.extractLsb' 0 2, digits := v.extractLsb' 4 4 }) s
  | .cmd => s
  | .status => writeStatus v s
  | .candlen => writeInput (fun s => { s with candlen := v.extractLsb' 0 8 }) s
  | .offset => s
  | .bincode => s
  | .code => s
  | .out _ => s
  | .cand k => writeInput (fun s => { s with cand := putLanes s.cand k v }) s
  | .digest k => writeInput (fun s => { s with digest := putLanes s.digest k v }) s
  | .reserved => s

/-! ### The life of a command -/

/-- `raise CmdError(code)`: the block's one way of taking an error (60_exceptions.md R160). The block has no trap: it
saves no state and switches no mode (R173), and there is no return from one (R174). -/
def raiseCmdError (e : CmdError) (s : State) : State := { s with err := e.bits, done := true }

/-- Acceptance of a command (30_encoding.md R84). -/
def accept (i : Instr) (s : State) : State := { s with err := errNone, done := false, pending := some i }

/-- The checks of a command in the order written, then acceptance (30_encoding.md R84, 60_exceptions.md R162). -/
def checkAndAccept (i : Instr) (s : State) : State :=
  if checksCfg i && !hashLegal s.hashsel then raiseCmdError .badhash s
  else if checksCfg i && !digitsLegal s.digits then raiseCmdError .baddigits s
  else accept i s

/-- `CommandWrite` for the word of command i (30_encoding.md R84): dropped while BUSY; otherwise MATCH is cleared and
the command is rejected or accepted. -/
def submit (i : Instr) (s : State) : State :=
  if s.busy then dropWrite s else checkAndAccept i { s with matched := false }

/-- `CommandWrite` for an illegal word (30_encoding.md R83, R84): dropped while BUSY, otherwise BADCMD. -/
def submitIllegal (s : State) : State :=
  if s.busy then dropWrite s else raiseCmdError .badcmd { s with matched := false }

/-- `Complete()` for command i (30_encoding.md R85): enabled exactly when i is pending; the command's commit, then
PENDING is NONE and DONE is 1. -/
def complete (i : Instr) (commit : State → State) (s : State) : State :=
  if s.pending = some i then { commit s with pending := none, done := true } else s

/-- A command's two steps (20_memory.md R62): the host's CMD write submits it, the engine's step completes it. -/
def runCommand (i : Instr) (commit : State → State) (s : State) : State :=
  match s.mover with
  | .host => submit i s
  | .engine => complete i commit s

/-! ### Reset -/

/-- The block takes its reset state (70_reset_and_hazards.md R190); a pending command is abandoned (R193). The
model's own fields are no part of the block and stay (assumption 7). -/
def resetBlock (s : State) : State :=
  { State.reset with host := s.host, schedule := s.schedule, mover := s.mover, draws := s.draws }

end Sys2Proof.Machine
end

