-- ==== Sys2Proof/Machine/Control.lean ====
section
/-! DEFINITION. The control commands NOP and CLEAR (42_control.md). -/

namespace Sys2Proof.Machine

/-- NOP's own part of its completion: nothing (42_control.md R140). -/
def nopCommit (s : State) : State := s

/-- NOP (42_control.md R140). -/
def execNop (s : State) : Host.Outcome State Fault Refusal := .next (runCommand .nop nopCommit s)

/-- `ClearCommit()` (42_control.md R141). -/
def clearCommit (s : State) : State :=
  { s with
    digest := Vector.replicate Config.digestMax 0
    cand := Vector.replicate Config.candMax 0
    candlen := 0
    offset := 0
    bincode := 0
    code := 0
    out := Vector.replicate Config.outMax 0
    exp := List.replicate Config.expMax 0 }

/-- CLEAR (42_control.md R141). -/
def execClear (s : State) : Host.Outcome State Fault Refusal := .next (runCommand .clear clearCommit s)

end Sys2Proof.Machine
end

