-- ==== Sys2Proof/Machine/Truncation.lean ====
section
/-! DEFINITION. Dynamic truncation (40_truncation.md): the pure function `Truncate` of R106, which VALIDATE uses too,
and the meaning of TRUNC. -/

namespace Sys2Proof.Machine

/-- The offset: the low 4 bits of the last digest byte (40_truncation.md R102). -/
def truncOffset (digest : Vector Byte Config.digestMax) (h : BitVec 2) : BitVec 4 :=
  (byteAt digest (lastIndex h) &&& 0x0F).setWidth 4

/-- binCode read at offset o, its first byte the most significant and that byte's bit 7 discarded
(40_truncation.md R103, 20_memory.md R79). -/
def binCodeAt (digest : Vector Byte Config.digestMax) (o : Nat) : BitVec 31 :=
  (byteAt digest o &&& 0x7F).setWidth 31 <<< 24 ||| (byteAt digest (o + 1)).setWidth 31 <<< 16
    ||| (byteAt digest (o + 2)).setWidth 31 <<< 8 ||| (byteAt digest (o + 3)).setWidth 31

/-- code = binCode mod 10^d, exact (40_truncation.md R104). -/
def codeOf (binCode : BitVec 31) (d : Nat) : BitVec 31 := BitVec.ofNat 31 (binCode.toNat % 10 ^ d)

/-- Character i of `Render(code, d)` (40_truncation.md R105). -/
def renderDigit (code d i : Nat) : Byte := BitVec.ofNat 8 (0x30 + code / 10 ^ (d - 1 - i) % 10)

/-- `Render(code, d)`: d ASCII digits, most significant first, zero-padded on the left (40_truncation.md R105). -/
def render (code d : Nat) : List Byte := (List.range d).map (renderDigit code d)

/-- What `Truncate` returns (40_truncation.md R106). -/
structure TruncResult where
  offset : BitVec 4
  binCode : BitVec 31
  code : BitVec 31
  str : List Byte
  deriving DecidableEq, Repr

/-- `Truncate(DIGEST, h, d)` (40_truncation.md R106). -/
def truncate (digest : Vector Byte Config.digestMax) (h : BitVec 2) (d : Nat) : TruncResult :=
  let o := truncOffset digest h
  let b := binCodeAt digest o.toNat
  let c := codeOf b d
  { offset := o, binCode := b, code := c, str := render c.toNat d }

/-- `Truncate` on the operands in the block's registers (40_truncation.md R107, 30_encoding.md R87). -/
def State.truncation (s : State) : TruncResult := truncate s.digest s.hashsel s.digitCount

/-- OUT[i] is s[i] for i below the string's length and 0x00 above (40_truncation.md R107). -/
def outOf (str : List Byte) : Vector Byte Config.outMax := Vector.ofFn fun i => str.getD i.val 0

/-- `TruncCommit()` (40_truncation.md R107). -/
def truncCommit (s : State) : State :=
  { s with
    offset := s.truncation.offset
    bincode := s.truncation.binCode
    code := s.truncation.code
    out := outOf s.truncation.str }

/-- TRUNC (40_truncation.md R100). -/
def execTrunc (s : State) : Host.Outcome State Fault Refusal := .next (runCommand .trunc truncCommit s)

end Sys2Proof.Machine
end

