-- ==== Sys2Proof/Machine/Validation.lean ====
section
/-! DEFINITION. Validation (41_validate.md): the length check, the comparison over a fixed set of lanes, and the
meaning of VALIDATE. -/

namespace Sys2Proof.Machine

/-- The difference of lane i: CAND[i] XOR EXP[i] below d, 0x00 above (41_validate.md R122). -/
def laneDiff (cand : Vector Byte Config.candMax) (str : List Byte) (d i : Nat) : Byte :=
  if i < d then byteAt cand i ^^^ str.getD i 0 else 0

/-- The bitwise difference accumulated over all CANDMAX lanes, every time (41_validate.md R122, R126). -/
def candDiff (cand : Vector Byte Config.candMax) (str : List Byte) (d : Nat) : Byte :=
  (List.range Config.candMax).foldl (fun acc i => acc ||| laneDiff cand str d i) 0

/-- lenok (41_validate.md R121). -/
def State.lenOk (s : State) : Bool := s.candLength == s.digitCount

/-- The verdict: lenok and eq, both computed (41_validate.md R123, 90_conflicts.md C3). -/
def State.verdict (s : State) : Bool :=
  s.lenOk && candDiff s.cand s.truncation.str s.digitCount == 0

/-- `ValidateCommit()` (41_validate.md R123): EXP and MATCH, no result register (R125). -/
def validateCommit (s : State) : State := { s with exp := s.truncation.str, matched := s.verdict }

/-- VALIDATE (41_validate.md R120). -/
def execValidate (s : State) : Host.Outcome State Fault Refusal := .next (runCommand .validate validateCommit s)

end Sys2Proof.Machine
end

