-- ==== Sys2Proof/Machine/Dispatch.lean ====
section
/-! DEFINITION. The meaning of each command: one arm per constructor of `Instr`. -/

namespace Sys2Proof.Machine

/-- What a command does at the step of its mover: its CMD write or its completion. -/
def exec (i : Instr) (s : State) : Host.Outcome State Fault Refusal :=
  match i with
  | .nop => Sys2Proof.Machine.execNop s
  | .trunc => Sys2Proof.Machine.execTrunc s
  | .validate => Sys2Proof.Machine.execValidate s
  | .clear => Sys2Proof.Machine.execClear s

end Sys2Proof.Machine
end

