-- ==== Sys2Proof/Machine/Bus.lean ====
section
/-! DEFINITION. The agents' steps: a host transaction on the bus port (20_memory.md R62 to R70), the engine's
completion (30_encoding.md R85), and reset (70_reset_and_hazards.md R190). Each is one atomic step (20_memory.md R62). -/

namespace Sys2Proof.Machine

/-! ### The host's transactions -/

/-- `CommandWrite(v)` (30_encoding.md R84): the word is decoded, and a legal one runs its command. -/
def commandWrite (v : Word) (s : State) : Host.Outcome State Fault Refusal :=
  match decodeWord v with
  | .ok i => exec i s
  | .error _ => .next (submitIllegal s)

/-- `MemWrite(off, size, v)` without its response (20_memory.md R64). -/
def memWrite (off : WindowOffset) (size : Size) (v : Word) (s : State) : Host.Outcome State Fault Refusal :=
  if served off size then
    if slotOf off = .cmd then commandWrite v s else .next (writeSlot (slotOf off) v s)
  else .next s

/-- The condition a `POLL` waits for (30_encoding.md R88). -/
def pollMet (r : Response) (mask value : Word) : Bool :=
  match r with
  | .read rdata _ => rdata &&& mask == value
  | .write _ => false

/-- The bus operations left after one: a `POLL` stays the next operation until its condition holds
(30_encoding.md R88); any other operation is done. -/
def hostAfter (op : HostOp) (r : Response) (ops : List HostOp) : List HostOp :=
  match op with
  | .read _ _ => ops.tail
  | .write _ _ _ => ops.tail
  | .poll _ mask value => if pollMet r mask value then ops.tail else ops

/-- The host's step: one bus transaction (20_memory.md R62 to R64). -/
def busOp (op : HostOp) (s : State) : Host.Outcome State Fault Refusal :=
  match op with
  | .read off size =>
    .next { s with mover := .host, response := some (memRead off size s), host := hostAfter op (memRead off size s) s.host }
  | .write off size v =>
    memWrite off size v
      { s with mover := .host, response := some (.write (writeResp off size)),
               host := hostAfter op (.write (writeResp off size)) s.host }
  | .poll off _ _ =>
    .next { s with mover := .host, response := some (memRead off .four s), host := hostAfter op (memRead off .four s) s.host }

/-! ### The engine and reset -/

/-- The engine's step: the completion of the pending command (30_encoding.md R85). -/
def completion (i : Instr) (s : State) : Host.Outcome State Fault Refusal :=
  exec i { s with mover := .engine, response := none }

/-- A step in which no agent does anything: an idle cycle of the block (70_reset_and_hazards.md R191). -/
def idleCycle (s : State) : State := { s with response := none }

/-- The answer to a bus operation made while rst_n is 0 (70_reset_and_hazards.md R190): a read is answered 0 and OKAY,
whatever its size and offset (assumption 5); the response to a write is a free value (assumption 6). -/
def resetResponse (op : HostOp) (draws : Nat) : Response :=
  match op with
  | .read _ _ => .read 0 .okay
  | .write _ _ _ => .write (if Config.resetWriteError draws then .error else .okay)
  | .poll _ _ _ => .read 0 .okay

/-- A clock edge with rst_n = 0 (70_reset_and_hazards.md R190): the block takes its reset state, whatever the host
does; a write made at that edge is ignored. -/
def resetEdge (op : Option HostOp) (s : State) : State :=
  match op with
  | none => resetBlock s
  | some op =>
    { resetBlock s with
      host := hostAfter op (resetResponse op s.draws) s.host
      response := some (resetResponse op s.draws)
      draws := s.draws + 1 }

/-! ### Whose turn it is -/

/-- What the host does when it moves: its next bus operation. -/
def State.hostMove (s : State) : Move :=
  match s.host with
  | [] => .idle
  | op :: _ => .bus op

/-- What the engine does when it moves: completion is enabled exactly when a command is pending (30_encoding.md R85). -/
def State.engineMove (s : State) : Move :=
  match s.pending with
  | none => .idle
  | some i => .completion i

/-- What happens where no schedule says who moves (20_memory.md R62, 70_reset_and_hazards.md R207): the only agent that
can move does; where both can, a free value chooses (assumption 2). -/
def State.freeMove (s : State) : Move :=
  match s.pending, s.host with
  | none, _ => s.hostMove
  | some i, [] => .completion i
  | some i, op :: _ => if Config.engineFirst s.draws then .completion i else .bus op

/-- What the next step does. -/
def State.nextMove (s : State) : Move :=
  match s.schedule with
  | [] => s.freeMove
  | .host :: _ => s.hostMove
  | .engine :: _ => s.engineMove
  | .reset :: _ => .reset none
  | .resetBus :: _ => .reset s.host.head?

/-- The turn is used up; where there was none to use, the free value of the choice is drawn (assumption 2). -/
def useTurn (s : State) : State :=
  match s.schedule with
  | [] => { s with draws := s.draws + 1 }
  | _ :: rest => { s with schedule := rest }

/-- The effect of a move: one atomic step (20_memory.md R62). -/
def perform (m : Move) (s : State) : Host.Outcome State Fault Refusal :=
  match m with
  | .idle => .next (idleCycle s)
  | .bus op => busOp op s
  | .completion i => completion i s
  | .reset op => .next (resetEdge op s)

/-- One step: the agent whose turn it is moves. -/
def takeTurn (s : State) : Host.Outcome State Fault Refusal := perform s.nextMove (useTurn s)

/-! ### Placing a command -/

/-- s with the CMD write of the low `nbits` bits of w as the host's next bus operation and the host as the next to
move (assumption 8). -/
def placeCommand (s : State) (nbits w : Nat) : State :=
  { s with
    schedule := .host :: s.schedule
    host := .write 0x0C .four (BitVec.ofNat 32 (w % 2 ^ nbits)) :: s.host }

end Sys2Proof.Machine
end

