-- ==== Sys2Proof/Machine/Step.lean ====
section
/-! DEFINITION. The step function: one atomic step of one agent (20_memory.md R62). -/

namespace Sys2Proof.Machine

/-- One step of the machine: the agent whose turn it is takes its step. -/
def step (s : State) : Host.Outcome State Fault Refusal := takeTurn s

/-- The block fetches nothing (10_state.md R20): its next command is the word of the host's next CMD write. This is s
with that write placed first and the host next to move, so that the very next step runs it. -/
def State.withFetchWord (s : State) (nbits w : Nat) : State := placeCommand s nbits w

end Sys2Proof.Machine
end

