-- ==== Sys2Proof/Machine/HostNotation.lean ====
section
/-! DEFINITION. What a host program means: the expansion of each line into bus operations (30_encoding.md R88, R89)
and the encoding of a program as bus transactions (30_encoding.md R90). -/

namespace Sys2Proof

open Sys2Proof.Machine

/-- The window offset of a place (30_encoding.md R88). -/
def Place.resolve : Place → WindowOffset
  | .offset off => off
  | .name n k => BitVec.ofNat 8 (n.windowBase + k)

/-- The word of bytes k to k+3 of a byte string, the first in bits 7:0; a byte past the end is 0x00
(30_encoding.md R89). -/
def packWord (bytes : List Byte) (k : Nat) : Word :=
  wordOfBytes (bytes.getD k 0) (bytes.getD (k + 1) 0) (bytes.getD (k + 2) 0) (bytes.getD (k + 3) 0)

/-- The word writes that load n words of a byte string at a buffer's window offset, in increasing order
(30_encoding.md R89). -/
def loadWords (base n : Nat) (bytes : List Byte) : List HostOp :=
  (List.range n).map fun k => .write (BitVec.ofNat 8 (base + 4 * k)) .four (packWord bytes (4 * k))

/-- How many words `LDCAND` writes: min(ceil(n/4), 4) (30_encoding.md R89). -/
def candWords (n : Nat) : Nat := min ((n + 3) / 4) 4

/-- The expansion of a line into bus operations (30_encoding.md R88, R89). -/
def HostLine.expand : HostLine → List HostOp
  | .wr p imm => [.write p.resolve .four imm]
  | .rd p _ => [.read p.resolve .four]
  | .poll p mask value => [.poll p.resolve mask value]
  | .command i => [.write (Place.name .cmd 0).resolve .four (encode i)]
  | .setcfg h d => [.write (Place.name .cfg 0).resolve .four (BitVec.ofNat 32 (d <<< 4 ||| h))]
  | .lddig bytes => loadWords RegName.digest.windowBase (bytes.length / 4) bytes
  | .ldcand bytes =>
    loadWords RegName.cand.windowBase (candWords bytes.length) bytes
      ++ [.write (Place.name .candlen 0).resolve .four (BitVec.ofNat 32 bytes.length)]
  | .wait => [.poll (Place.name .status 0).resolve 0x00000001 0x00000000]
  | .ack => [.write (Place.name .status 0).resolve .four 0x0000000A]

/-- A host program is a sequence of lines; labels and comments make no bus operation (30_encoding.md R88). -/
def expandProgram (p : List SourceLine) : List HostOp := p.flatMap fun l => l.op.expand

/-- The value an `RD` line expects to read; the block does not see it (30_encoding.md R88). -/
def HostLine.expected : HostLine → Option Word
  | .rd _ expect => expect
  | _ => none

/-- The answer of the bus is the one the line expects (30_encoding.md R88). -/
def HostLine.expectationMet (l : HostLine) (r : Response) : Bool :=
  match l.expected, r with
  | none, _ => true
  | some v, .read rdata _ => rdata == v
  | some _, .write _ => false

/-- A bus transaction as it stands on the host's bus (30_encoding.md R90). Only a write has a wdata: R90 lists none for
a read, and what the request port's wdata of 20_memory.md R61 holds in a read no rule says. DESIGN CHOICE
(assumption 20): a read's is `none`. -/
structure BusTransaction where
  isWrite : Bool
  addr : Nat
  size : Nat
  wdata : Option Word
  deriving DecidableEq, Repr

/-- The encoding of an operation: one transaction, or one read repeated until its condition holds
(30_encoding.md R90). -/
inductive BusPattern where
  | once (t : BusTransaction)
  | repeated (t : BusTransaction) (mask value : Word)
  deriving DecidableEq, Repr

/-- The number of bytes of an access (20_memory.md R61). -/
def Machine.Size.bytes : Size → Nat
  | .one => 1
  | .two => 2
  | .four => 4

/-- The bus address of a window offset: BASE + offset (00_scope.md R6, 10_state.md R22). -/
def busAddress (off : WindowOffset) : Nat := Config.base + off.toNat

/-- The block's addr[7:0] of a bus address (20_memory.md R61). -/
def windowOffset (addr : Nat) : WindowOffset := BitVec.ofNat 8 addr

/-- The encoding of one bus operation (30_encoding.md R90); a read has no wdata (assumption 20). -/
def encodeOp : HostOp → BusPattern
  | .read off size => .once { isWrite := false, addr := busAddress off, size := size.bytes, wdata := none }
  | .write off size v => .once { isWrite := true, addr := busAddress off, size := size.bytes, wdata := some v }
  | .poll off mask value =>
    .repeated { isWrite := false, addr := busAddress off, size := 4, wdata := none } mask value

/-- The encoding of a program: its transactions in order (30_encoding.md R90). -/
def encodeProgram (p : List SourceLine) : List BusPattern := (expandProgram p).map encodeOp

/-- The host about to run a program. -/
def Machine.State.withProgram (s : State) (p : List SourceLine) : State := { s with host := expandProgram p }

end Sys2Proof
end

