-- ==== Sys2Proof/Safety.lean ====
section
/-! DEFINITION. What a safe state of the machine is, what a step does, and what a host can tell apart: the terms the
claims use. -/

namespace Sys2Proof.Machine

/-! ### The invariant of every run -/

/-- OFFSET, BINCODE, CODE and OUT are those of reset or CLEAR, or one TRUNC's: CODE is BINCODE mod 10^d and OUT its
rendering, for a legal digit count d (70_reset_and_hazards.md R203, 10_state.md R38, R39). -/
def State.ResultsAgree (s : State) : Prop :=
  (s.offset = 0 ∧ s.bincode = 0 ∧ s.code = 0 ∧ s.out = Vector.replicate Config.outMax 0) ∨
  ∃ d, 1 ≤ d ∧ d ≤ 10 ∧ s.code.toNat = s.bincode.toNat % 10 ^ d ∧ s.out = outOf (render s.code.toNat d)

/-- What holds at reset and is kept by every step. -/
structure State.Inv (s : State) : Prop where
  /-- A pending command was accepted under a legal configuration, which cannot change while BUSY (30_encoding.md R84,
  20_memory.md R70). -/
  pendingLegal : ∀ i, s.pending = some i → cfgLegalFor i s = true
  /-- Acceptance cleared DONE, MATCH and ERR, and nothing sets them before the completion (30_encoding.md R84). -/
  busyFlags : s.busy = true → s.done = false ∧ s.matched = false ∧ s.err = errNone
  /-- Codes 0x4 to 0xF are never produced (60_exceptions.md R161). -/
  errProduced : s.err.toNat ≤ 3
  /-- MATCH fails closed: it never stands beside an error (10_state.md R32, 41_validate.md R120). -/
  matchNoError : s.matched = true → s.err = errNone
  /-- While MATCH = 1 the current inputs match (10_state.md R32, 70_reset_and_hazards.md R204). -/
  matchSound : s.matched = true → hashLegal s.hashsel = true ∧ digitsLegal s.digits = true ∧ s.verdict = true
  /-- The result registers describe one truncation (70_reset_and_hazards.md R203). -/
  resultsAgree : s.ResultsAgree
  /-- EXP holds at most 10 bytes (10_state.md R42). -/
  expFits : s.exp.length ≤ Config.expMax

/-- The components of 10_state.md R43 at their reset values; EXP is unobservable and left out. -/
structure State.AtReset (s : State) : Prop where
  ctrl : s.ie = false
  cfg : s.hashsel = 0 ∧ s.digits = 6
  status : s.done = false ∧ s.matched = false ∧ s.wbusy = false ∧ s.err = 0
  candlen : s.candlen = 0
  cand : ∀ i < 16, byteAt s.cand i = 0
  digest : ∀ i < 64, byteAt s.digest i = 0
  results : s.offset = 0 ∧ s.bincode = 0 ∧ s.code = 0
  out : ∀ i < 12, byteAt s.out i = 0
  pending : s.pending = none
  irq : s.irq = false

/-! ### What a step does -/

/-- The next step is a host read of a size at an offset: an operation of its own, or one read of a `POLL`, which reads
4 bytes (20_memory.md R63, 30_encoding.md R88). -/
def State.reads (s : State) (off : WindowOffset) (size : Size) : Prop :=
  s.nextMove = .bus (.read off size) ∨ size = .four ∧ ∃ mask value, s.nextMove = .bus (.poll off mask value)

/-- The next step is a 32-bit host write of v at an offset. -/
def State.writes (s : State) (off : WindowOffset) (v : Word) : Prop := s.nextMove = .bus (.write off .four v)

/-- The offsets of CFG, CANDLEN, CAND and DIGEST words (10_state.md R22). -/
def inputOffset (off : WindowOffset) : Prop :=
  off.toNat % 4 = 0 ∧
    (off = 0x08 ∨ off = 0x14 ∨ (0x40 ≤ off.toNat ∧ off.toNat ≤ 0x4C) ∨ (0x80 ≤ off.toNat ∧ off.toNat ≤ 0xBC))

/-- The next step is a write to an input register that is not dropped (20_memory.md R64). -/
def State.writesInput (s : State) : Prop := s.busy = false ∧ ∃ off v, s.writes off v ∧ inputOffset off

/-- The next step is a write dropped because BUSY is 1 (20_memory.md R70). -/
def State.dropsWrite (s : State) : Prop :=
  s.busy = true ∧ ∃ off v, s.writes off v ∧ (inputOffset off ∨ off = 0x0C)

/-- The host keeps its duty at the next step: no input write and no CMD write while BUSY
(70_reset_and_hazards.md R201, R202). -/
def State.respectsBusy (s : State) : Prop := ¬s.dropsWrite

/-- The next step is a CMD write that is not dropped (30_encoding.md R84). -/
def State.submits (s : State) : Prop := s.busy = false ∧ ∃ v, s.writes 0x0C v

/-- The next step accepts command i (30_encoding.md R84). -/
def State.accepts (s : State) (i : Instr) : Prop :=
  s.busy = false ∧ ∃ v, s.writes 0x0C v ∧ decodeWord v = .ok i ∧ cfgLegalFor i s = true

/-- The next step rejects a CMD write with an error code (60_exceptions.md R160 to R162). -/
def State.rejects (s : State) (code : BitVec 4) : Prop :=
  s.busy = false ∧ ∃ v, s.writes 0x0C v ∧
    ((code = 1 ∧ ∃ r, decodeWord v = .error r) ∨
     (code = 2 ∧ s.hashsel = 3 ∧ (decodeWord v = .ok .trunc ∨ decodeWord v = .ok .validate)) ∨
     (code = 3 ∧ s.hashsel ≠ 3 ∧ ¬(1 ≤ s.digits.toNat ∧ s.digits.toNat ≤ 10) ∧
       (decodeWord v = .ok .trunc ∨ decodeWord v = .ok .validate)))

/-- The next step is a STATUS write with a bit of the written word set (10_state.md R29). -/
def State.acks (s : State) (bit : Nat) : Prop := ∃ v, s.writes 0x10 v ∧ v.getLsbD bit = true

/-- The next step completes command i (30_encoding.md R85). -/
def State.completes (s : State) (i : Instr) : Prop := s.nextMove = .completion i

/-- The next step is a clock edge with rst_n = 0 (70_reset_and_hazards.md R190). -/
def State.resets (s : State) : Prop := ∃ op, s.nextMove = .reset op

/-! ### What can be told apart -/

/-- The two states differ at most in the response port and the model's own fields: the block is the same. -/
def State.SameBlock (s t : State) : Prop :=
  { s with response := t.response, host := t.host, schedule := t.schedule, mover := t.mover, draws := t.draws } = t

/-- The two states hold the same inputs of the commands (30_encoding.md R87). -/
def State.SameInputs (s t : State) : Prop :=
  s.hashsel = t.hashsel ∧ s.digits = t.digits ∧ s.digest = t.digest ∧ s.candlen = t.candlen ∧ s.cand = t.cand

/-- The two states hold the same result registers (10_state.md R38, R39). -/
def State.SameResults (s t : State) : Prop :=
  s.offset = t.offset ∧ s.bincode = t.bincode ∧ s.code = t.code ∧ s.out = t.out

/-- The two states differ at most in the hidden EXP (10_state.md R41). -/
def State.EqButExp (s t : State) : Prop := { s with exp := t.exp } = t

/-- The two states differ at most in the inputs of the commands and in EXP. -/
def State.EqButInputs (s t : State) : Prop :=
  { s with
    hashsel := t.hashsel, digits := t.digits, digest := t.digest, cand := t.cand, candlen := t.candlen,
    exp := t.exp } = t

end Sys2Proof.Machine
end

