-- ==== Sys2Proof/Certificates/Slice0/Obligations.lean ====
section
/-! DEFINITION. The statements about the model, each a proposition and none proved here. A statement about a free value
(an `opaque` constant of Config) holds whatever that value is. -/

open Sys2Proof Sys2Proof.Machine

/-! ### Reset (10_state.md R43, 70_reset_and_hazards.md R190 to R195) -/

/-- 10_state.md R43: the reset value of every component, and with 20_memory.md R63 what a host reads of every register:
the identification constant from ID, 0x60 from CFG, and 0 from every other aligned offset (CTRL, CMD, STATUS, CANDLEN,
the results, each OUT, CAND and DIGEST word, and the reserved offsets), all OKAY. EXP, which the rule leaves to the
model, is not in it. -/
def Obligations.ResetStateValues : Prop :=
  State.reset.AtReset ∧
  memRead 0x00 .four State.reset = .read 0x4F545031 .okay ∧
  memRead 0x08 .four State.reset = .read 0x00000060 .okay ∧
  ∀ off : WindowOffset, off.toNat % 4 = 0 → off ≠ 0x00 → off ≠ 0x08 →
    memRead off .four State.reset = .read 0x00000000 .okay

/-- 70_reset_and_hazards.md section 1: at a clock edge with rst_n = 0 the block takes the reset state whatever the host
or the engine would do; a read at that edge, be it a `POLL`'s, is answered 0 and OKAY, a write is ignored; the next
host turn is served. Two clauses are the model's choice: that a read of another size or at an unaligned offset is
answered OKAY too (assumption 5, where 20_memory.md R66 would say ERROR), and that an ignored write is answered at all,
by a response code that is a free value (assumption 6). -/
def Obligations.ResetTakesPrecedence : Prop :=
  ∀ (s : State) (rest : List Turn), s.schedule = .reset :: rest ∨ s.schedule = .resetBus :: rest →
    ∃ t, step s = .next t ∧ t.AtReset ∧ t.schedule = rest ∧
      (s.schedule = .reset :: rest → t.host = s.host) ∧
      (∀ off size ops, s.schedule = .resetBus :: rest → s.host = .read off size :: ops →
        t.response = some (.read 0 .okay) ∧ t.host = ops) ∧
      (∀ off size v ops, s.schedule = .resetBus :: rest → s.host = .write off size v :: ops →
        (∃ r, t.response = some (.write r)) ∧ t.host = ops) ∧
      (∀ off mask value ops, s.schedule = .resetBus :: rest → s.host = .poll off mask value :: ops →
        t.response = some (.read 0 .okay)) ∧
      (∀ op ops later, rest = .host :: later → t.host = op :: ops →
        step t = busOp op { t with schedule := later })

/-- 70_reset_and_hazards.md R193: a command pending at a reset is abandoned; however many turns the engine then has,
nothing is committed and DONE stays 0. -/
def Obligations.ResetAbandonsCommand : Prop :=
  ∀ (s : State) (i : Instr) (n : Nat) (rest : List Turn), s.pending = some i →
    s.schedule = .reset :: (List.replicate n .engine ++ rest) →
    ∃ t, Sys2Proof.core.run (n + 1) s = .next t ∧ t.AtReset ∧ t.schedule = rest ∧ t.host = s.host

/-- 70_reset_and_hazards.md R195: a TRUNC issued at once after reset truncates the all-zero digest with SHA1 and 6
digits, and OUT reads 000000. -/
def Obligations.FirstTruncAfterReset : Prop :=
  ∀ (s : State) (ops : List HostOp) (rest : List Turn), s.AtReset →
    s.host = .write 0x0C .four 0x00000001 :: ops → s.schedule = .host :: .engine :: rest →
    ∃ t, Sys2Proof.core.run 2 s = .next t ∧ t.offset = 0 ∧ t.bincode = 0 ∧ t.code = 0 ∧
      memRead 0x30 .four t = .read 0x30303030 .okay ∧ memRead 0x34 .four t = .read 0x00003030 .okay ∧
      memRead 0x38 .four t = .read 0x00000000 .okay ∧ memRead 0x10 .four t = .read 0x00000002 .okay

/-! ### Encoding (30_encoding.md R80 to R83) -/

/-- 30_encoding.md R82: the four command words decode to their commands and the words 0x3 to 0xE to none. -/
def Obligations.CommandWordsDecodeAsTabled : Prop :=
  decodeWord 0x00000000 = .ok .nop ∧ decodeWord 0x00000001 = .ok .trunc ∧ decodeWord 0x00000002 = .ok .validate ∧
  decodeWord 0x0000000F = .ok .clear ∧
  ∀ n : Nat, 3 ≤ n → n ≤ 14 → decodeWord (BitVec.ofNat 32 n) = .error .reservedOpcode

/-- 30_encoding.md R80 to R82: bytes decode to a command exactly when they begin with that command's word, and the rest
is left over. Every command's word decodes back, and no other word decodes to it. -/
def Obligations.DecodeInvertsEncode : Prop :=
  ∀ (bytes : List Byte) (i : Instr) (rest : List Byte), i.wellFormed = true →
    (decode bytes = .ok (i, rest) ↔ bytes = encodeBytes i ++ rest)

/-- 30_encoding.md R83: a word is rejected by the decoder exactly when RSVD is not 0 or OPCODE is one of 0x3 to 0xE. -/
def Obligations.IllegalWordsAreTheReservedOnes : Prop :=
  ∀ w : Word, (∃ r, decodeWord w = .error r) ↔
    (w.toNat / 16 ≠ 0 ∨ (3 ≤ w.toNat % 16 ∧ w.toNat % 16 ≤ 14))

/-! ### The step (20_memory.md R62, 30_encoding.md R84, R85) -/

/-- A step runs the decoded command: where the host moves and its operation is a write to CMD whose bytes decode to a
well-formed command, the step is that command's meaning, with the operation used up and answered OKAY. -/
def Obligations.StepRunsDecodedCommand : Prop :=
  ∀ (s : State) (rest : List Turn) (ops : List HostOp) (v : Word) (i : Instr),
    s.schedule = .host :: rest → s.host = .write 0x0C .four v :: ops →
    decode (bytesOfWord v) = .ok (i, []) → i.wellFormed = true →
    step s =
      exec i { s with schedule := rest, host := ops, mover := .host, response := some (.write .okay) }

/-- 30_encoding.md R85: where the engine moves, the pending command completes by its meaning, which never fails and
never changes ERR; BUSY reads 0 and DONE is 1 after it. With no command pending the engine does nothing. -/
def Obligations.EngineTurnCompletesPending : Prop :=
  ∀ (s : State) (rest : List Turn), s.schedule = .engine :: rest →
    (s.pending = none → step s = .next { s with schedule := rest, response := none }) ∧
    (∀ i, s.pending = some i →
      step s = exec i { s with schedule := rest, mover := .engine, response := none } ∧
      ∃ t, step s = .next t ∧ t.pending = none ∧ t.busy = false ∧ t.done = true ∧ t.err = s.err)

/-- 20_memory.md R62 and assumption 2 (the model's choice): with no schedule, the step is the host's or the engine's,
and where only one of them can move it is that one's. -/
def Obligations.UnscheduledStepIsHostsOrEngines : Prop :=
  ∀ s : State, s.schedule = [] →
    ∃ turn, (turn = .host ∨ turn = .engine) ∧
      step s = step { s with schedule := [turn], draws := s.draws + 1 } ∧
      (s.pending = none → turn = .host) ∧ (s.host = [] → s.pending ≠ none → turn = .engine)

/-- 60_exceptions.md R163: every step of the block completes; there is no fault state and no stuck state. -/
def Obligations.EveryStepAnswersNext : Prop :=
  ∀ s : State, ∃ t, step s = .next t

/-! ### The life of a command (30_encoding.md R84, 60_exceptions.md R160 to R162) -/

/-- 30_encoding.md R84: a host write of v to CMD, as one step, from every state: dropped while BUSY, else MATCH is
cleared and the checks run in the order written. -/
def Obligations.CommandWriteRunsChecksInOrder : Prop :=
  ∀ (s : State) (rest : List Turn) (ops : List HostOp) (v : Word),
    s.schedule = .host :: rest → s.host = .write 0x0C .four v :: ops →
    let s1 := { s with schedule := rest, host := ops, mover := .host, response := some (.write .okay) }
    let op := v.toNat % 16
    step s = .next (
      if s.pending ≠ none then { s1 with wbusy := true }
      else if v.toNat / 16 ≠ 0 ∨ ¬(op = 0x0 ∨ op = 0x1 ∨ op = 0x2 ∨ op = 0xF) then
        { s1 with matched := false, err := 1, done := true }
      else if (op = 0x1 ∨ op = 0x2) ∧ s.hashsel = 0b11 then
        { s1 with matched := false, err := 2, done := true }
      else if (op = 0x1 ∨ op = 0x2) ∧ (s.digits.toNat < 1 ∨ s.digits.toNat > 10) then
        { s1 with matched := false, err := 3, done := true }
      else { s1 with
        matched := false, err := 0, done := false,
        pending := some (if op = 0x0 then .nop else if op = 0x1 then .trunc else if op = 0x2 then .validate else .clear) })

/-- 30_encoding.md R84: the CMD write of each command completes its acceptance, from every idle state; TRUNC and
VALIDATE need a legal configuration, NOP and CLEAR none. -/
def Obligations.AcceptedCommandBecomesPending : Prop :=
  ∀ (s : State) (i : Instr), s.mover = .host → s.pending = none →
    ((i = .trunc ∨ i = .validate) → s.hashsel ≠ 0b11 ∧ 1 ≤ s.digits.toNat ∧ s.digits.toNat ≤ 10) →
    exec i s = .next { s with matched := false, err := 0, done := false, pending := some i }

/-- 60_exceptions.md R160: a rejected CMD write sets ERR to its code and DONE, leaves MATCH 0 and the block idle, and
changes nothing else of the block; irq follows CTRL.IE in the same step. -/
def Obligations.RejectionChangesOnlyStatus : Prop :=
  ∀ (s : State) (code : BitVec 4), s.rejects code →
    ∃ t, step s = .next t ∧
      State.SameBlock { s with err := code, done := true, matched := false } t ∧ t.busy = false ∧ t.irq = s.ie

/-! ### The commands -/

/-- 42_control.md R140: NOP's word, its acceptance under any configuration, its completion, and the words with its
OPCODE that are not NOP. -/
def Obligations.NopAcceptsAndCompletes : Prop :=
  encode .nop = 0x00000000 ∧ decodeWord 0x00000000 = .ok .nop ∧
  (∀ w : Word, w.toNat % 16 = 0 → w.toNat / 16 ≠ 0 → decodeWord w = .error .reservedBits) ∧
  (∀ s : State, s.mover = .host → s.pending = none →
    exec .nop s = .next { s with matched := false, err := 0, done := false, pending := some .nop }) ∧
  (∀ s : State, s.mover = .engine → s.pending = some .nop →
    exec .nop s = .next { s with pending := none, done := true })

/-- 40_truncation.md R107 with R101 to R105: the completion of TRUNC under each legal configuration. OFFSET is the low
4 bits of the last digest byte, BINCODE the 31-bit big-endian number read there, CODE its remainder by 10^d, OUT the d
digits of CODE and 0x00 above them; nothing else changes but PENDING and DONE. -/
def Obligations.TruncCommitsTruncation : Prop :=
  ∀ (s : State) (len : Nat), s.mover = .engine → s.pending = some .trunc →
    ((s.hashsel = 0b00 ∧ len = 20) ∨ (s.hashsel = 0b01 ∧ len = 32) ∨ (s.hashsel = 0b10 ∧ len = 64)) →
    1 ≤ s.digits.toNat → s.digits.toNat ≤ 10 →
    ∃ t, exec .trunc s = .next t ∧
      t.offset.toNat = (byteAt s.digest (len - 1)).toNat % 16 ∧
      t.bincode.toNat =
        (byteAt s.digest t.offset.toNat).toNat % 128 * 2 ^ 24 + (byteAt s.digest (t.offset.toNat + 1)).toNat * 2 ^ 16
          + (byteAt s.digest (t.offset.toNat + 2)).toNat * 2 ^ 8 + (byteAt s.digest (t.offset.toNat + 3)).toNat ∧
      t.code.toNat = t.bincode.toNat % 10 ^ s.digits.toNat ∧
      (∀ k < s.digits.toNat,
        (byteAt t.out k).toNat = 0x30 + t.code.toNat / 10 ^ (s.digits.toNat - 1 - k) % 10) ∧
      (∀ k, s.digits.toNat ≤ k → k < 12 → byteAt t.out k = 0x00) ∧
      t = { s with
        offset := t.offset, bincode := t.bincode, code := t.code, out := t.out, pending := none, done := true }

/-- 41_validate.md R123 with R121 and R122: the completion of VALIDATE. EXP is the string a TRUNC on the same inputs
would render, MATCH is 1 exactly when LEN = d and CAND agrees with it below d; nothing else changes but PENDING and
DONE. -/
def Obligations.ValidateCommitsVerdict : Prop :=
  ∀ s : State, s.mover = .engine → s.pending = some .validate →
    s.hashsel ≠ 0b11 → 1 ≤ s.digits.toNat → s.digits.toNat ≤ 10 →
    ∃ t, exec .validate s = .next t ∧
      t.exp = (truncate s.digest s.hashsel s.digits.toNat).str ∧
      (t.matched = true ↔
        s.candlen.toNat = s.digits.toNat ∧ ∀ k < s.digits.toNat, byteAt s.cand k = t.exp.getD k 0) ∧
      t = { s with exp := t.exp, matched := t.matched, pending := none, done := true }

/-- 42_control.md R141: CLEAR's word, its acceptance under any configuration, and its completion, which erases the
input buffers, the results and EXP and leaves CTRL, CFG, ERR and WBUSY. -/
def Obligations.ClearErasesInputsAndResults : Prop :=
  encode .clear = 0x0000000F ∧ decodeWord 0x0000000F = .ok .clear ∧
  (∀ s : State, s.mover = .host → s.pending = none →
    exec .clear s = .next { s with matched := false, err := 0, done := false, pending := some .clear }) ∧
  (∀ s : State, s.mover = .engine → s.pending = some .clear →
    ∃ t, exec .clear s = .next t ∧
      (∀ k < 64, byteAt t.digest k = 0x00) ∧ (∀ k < 16, byteAt t.cand k = 0x00) ∧ t.candlen = 0 ∧
      t.offset = 0 ∧ t.bincode = 0 ∧ t.code = 0 ∧ (∀ k < 12, byteAt t.out k = 0x00) ∧ (∀ b ∈ t.exp, b = 0x00) ∧
      t = { s with
        digest := t.digest, cand := t.cand, candlen := t.candlen, offset := t.offset, bincode := t.bincode,
        code := t.code, out := t.out, exp := t.exp, pending := none, done := true })

/-! ### Truncation and validation (40_truncation.md R106, R109; 41_validate.md R124 to R128) -/

/-- 40_truncation.md R109 (a) to (e): the ranges of offset, binCode and code, the division identity, and the rendering
read back as a decimal number. -/
def Obligations.TruncationArithmeticLaws : Prop :=
  ∀ (digest : Vector Byte 64) (h : BitVec 2) (d : Nat), 1 ≤ d → d ≤ 10 →
    let r := truncate digest h d
    r.offset.toNat ≤ 15 ∧ r.binCode.toNat < 2 ^ 31 ∧ r.code.toNat < min (10 ^ d) (2 ^ 31) ∧
    r.code.toNat = r.binCode.toNat - 10 ^ d * (r.binCode.toNat / 10 ^ d) ∧
    r.str.length = d ∧ (∀ b ∈ r.str, 0x30 ≤ b.toNat ∧ b.toNat ≤ 0x39) ∧
    r.str.foldl (fun n b => 10 * n + (b.toNat - 0x30)) 0 = r.code.toNat

/-- 40_truncation.md R106 and 10_state.md R37: the truncation reads DIGEST[L-1] and DIGEST[offset..offset+3] and nothing
else of the digest. -/
def Obligations.TruncationReadsOnlyFiveBytes : Prop :=
  ∀ (g g' : Vector Byte 64) (h : BitVec 2) (d len : Nat),
    ((h = 0b00 ∧ len = 20) ∨ (h = 0b01 ∧ len = 32) ∨ (h = 0b10 ∧ len = 64)) →
    byteAt g (len - 1) = byteAt g' (len - 1) →
    (∀ j < 4, byteAt g ((byteAt g (len - 1)).toNat % 16 + j) = byteAt g' ((byteAt g (len - 1)).toNat % 16 + j)) →
    truncate g h d = truncate g' h d

/-- 41_validate.md R128: from the state a TRUNC completed in, with the same digest and configuration and a candidate of
length d, a VALIDATE completes with MATCH = 1 where the candidate is OUT below d, and with MATCH = 0 where any one
byte below d differs; equal inputs give equal verdicts. -/
def Obligations.ValidateAcceptsExactlyTheTruncatedCode : Prop :=
  ∀ (s t v : State), s.mover = .engine → s.pending = some .trunc →
    s.hashsel ≠ 0b11 → 1 ≤ s.digits.toNat → s.digits.toNat ≤ 10 → exec .trunc s = .next t →
    v.mover = .engine → v.pending = some .validate →
    v.digest = t.digest → v.hashsel = t.hashsel → v.digits = t.digits → v.candlen.toNat = t.digits.toNat →
    ∃ u, exec .validate v = .next u ∧
      ((∀ k < t.digits.toNat, byteAt v.cand k = byteAt t.out k) → u.matched = true) ∧
      ((∃ k < t.digits.toNat, byteAt v.cand k ≠ byteAt t.out k) → u.matched = false) ∧
      (∀ v' : State, v'.mover = .engine → v'.pending = some .validate → v.SameInputs v' →
        ∃ u', exec .validate v' = .next u' ∧ u'.matched = u.matched)

/-- 41_validate.md R125: VALIDATE, at its CMD write and at its completion, changes no reading of the window but that of
STATUS. -/
def Obligations.ValidateWritesOnlyStatus : Prop :=
  ∀ s : State, ∃ t, exec .validate s = .next t ∧
    ∀ (off : WindowOffset) (size : Size), off ≠ 0x10 → memRead off size t = memRead off size s

/-- 41_validate.md R124: two VALIDATE completions whose inputs differ in any way but whose verdicts agree leave states
that differ in nothing but those inputs and the hidden EXP. -/
def Obligations.ValidateRevealsOnlyTheVerdict : Prop :=
  ∀ s s' : State, s.EqButInputs s' → s.mover = .engine → s.pending = some .validate → s.verdict = s'.verdict →
    ∃ t t', exec .validate s = .next t ∧ exec .validate s' = .next t' ∧ t.EqButInputs t' ∧
      t.SameInputs s ∧ t'.SameInputs s'

/-! ### The register window (20_memory.md R63 to R70) -/

/-- 20_memory.md R63 with R65 and 10_state.md R22: a host read, and each read of a `POLL` (30_encoding.md R88: a 4-byte
read), answers ERROR and 0 where it is not a 4-byte access at an aligned offset, otherwise OKAY and the value the rule
gives, and changes nothing of the block. -/
def Obligations.ReadAnswersTheRegister : Prop :=
  ∀ (s : State) (off : WindowOffset) (size : Size), s.reads off size →
    let o := off.toNat
    let word := fun (b : Nat → Byte) (k : Nat) =>
      (b k).toNat + (b (k + 1)).toNat * 2 ^ 8 + (b (k + 2)).toNat * 2 ^ 16 + (b (k + 3)).toNat * 2 ^ 24
    ∃ t w r, step s = .next t ∧ s.SameBlock t ∧ t.response = some (.read w r) ∧
      (size ≠ .four ∨ o % 4 ≠ 0 → w = 0 ∧ r = .error) ∧
      (size = .four → o % 4 = 0 → r = .okay ∧ w.toNat =
        if o = 0x000 then 0x4F545031
        else if o = 0x004 then s.ie.toNat
        else if o = 0x008 then s.digits.toNat * 2 ^ 4 + s.hashsel.toNat
        else if o = 0x00C then 0
        else if o = 0x010 then
          s.err.toNat * 2 ^ 4 + s.wbusy.toNat * 2 ^ 3 + s.matched.toNat * 2 ^ 2 + s.done.toNat * 2 + s.busy.toNat
        else if o = 0x014 then s.candlen.toNat
        else if o = 0x018 then s.offset.toNat
        else if o = 0x01C then s.bincode.toNat
        else if o = 0x020 then s.code.toNat
        else if 0x030 ≤ o ∧ o ≤ 0x038 then word (byteAt s.out) (o - 0x030)
        else if 0x040 ≤ o ∧ o ≤ 0x04C then word (byteAt s.cand) (o - 0x040)
        else if 0x080 ≤ o ∧ o ≤ 0x0BC then word (byteAt s.digest) (o - 0x080)
        else 0)

/-- 20_memory.md R66: an access of another size or at an unaligned offset is answered ERROR, a read (be it a `POLL`'s)
with rdata = 0, and changes nothing of the block. -/
def Obligations.UnservedAccessAnswersError : Prop :=
  ∀ (s : State) (off : WindowOffset) (size : Size), size ≠ .four ∨ off.toNat % 4 ≠ 0 →
    (s.reads off size →
      ∃ t, step s = .next t ∧ s.SameBlock t ∧ t.response = some (.read 0 .error)) ∧
    (∀ v, s.nextMove = .bus (.write off size v) →
      ∃ t, step s = .next t ∧ s.SameBlock t ∧ t.response = some (.write .error))

/-- 10_state.md R24 and R29: writes to CTRL and STATUS are served whatever BUSY is. CTRL stores bit 0 in IE; STATUS
clears DONE where bit 1 is 1 and WBUSY where bit 3 is 1; nothing else of the block changes. -/
def Obligations.ControlWritesServedWhileBusy : Prop :=
  ∀ (s : State) (v : Word),
    (s.writes 0x04 v → ∃ t, step s = .next t ∧ t.response = some (.write .okay) ∧
      (t.ie = true ↔ v.toNat % 2 = 1) ∧ State.SameBlock { s with ie := t.ie } t) ∧
    (s.writes 0x10 v → ∃ t, step s = .next t ∧ t.response = some (.write .okay) ∧
      (t.done = true ↔ s.done = true ∧ v.toNat / 2 % 2 = 0) ∧
      (t.wbusy = true ↔ s.wbusy = true ∧ v.toNat / 8 % 2 = 0) ∧
      State.SameBlock { s with done := t.done, wbusy := t.wbusy } t)

/-- 10_state.md R25 and R35: while BUSY is 0, a write to CFG stores bits 1:0 and 7:4 whatever their value, one to CANDLEN
stores bits 7:0, and each clears MATCH; nothing else of the block changes. -/
def Obligations.ConfigWritesStoreAndClearMatch : Prop :=
  ∀ (s : State) (v : Word), s.busy = false →
    (s.writes 0x08 v → ∃ t, step s = .next t ∧ t.response = some (.write .okay) ∧
      t.hashsel.toNat = v.toNat % 4 ∧ t.digits.toNat = v.toNat / 16 % 16 ∧
      State.SameBlock { s with hashsel := t.hashsel, digits := t.digits, matched := false } t) ∧
    (s.writes 0x14 v → ∃ t, step s = .next t ∧ t.response = some (.write .okay) ∧
      t.candlen.toNat = v.toNat % 256 ∧ State.SameBlock { s with candlen := t.candlen, matched := false } t)

/-- 10_state.md R36 and R37 with 20_memory.md R64 and R65: while BUSY is 0, a write to a CAND or DIGEST word stores byte
j of the word at index k+j and no other byte, and clears MATCH; nothing else of the block changes. -/
def Obligations.BufferWritesStoreFourBytes : Prop :=
  ∀ (s : State) (v : Word) (k : Nat), s.busy = false →
    (k < 4 → s.writes (BitVec.ofNat 8 (0x40 + 4 * k)) v →
      ∃ t, step s = .next t ∧ t.response = some (.write .okay) ∧
        (∀ j < 4, (byteAt t.cand (4 * k + j)).toNat = v.toNat / 2 ^ (8 * j) % 256) ∧
        (∀ i, i < 4 * k ∨ 4 * k + 4 ≤ i → byteAt t.cand i = byteAt s.cand i) ∧
        State.SameBlock { s with cand := t.cand, matched := false } t) ∧
    (k < 16 → s.writes (BitVec.ofNat 8 (0x80 + 4 * k)) v →
      ∃ t, step s = .next t ∧ t.response = some (.write .okay) ∧
        (∀ j < 4, (byteAt t.digest (4 * k + j)).toNat = v.toNat / 2 ^ (8 * j) % 256) ∧
        (∀ i, i < 4 * k ∨ 4 * k + 4 ≤ i → byteAt t.digest i = byteAt s.digest i) ∧
        State.SameBlock { s with digest := t.digest, matched := false } t)

/-- 20_memory.md R70: while BUSY is 1, a write to CFG, CANDLEN, CAND, DIGEST or CMD is answered OKAY, sets WBUSY and
changes nothing else of the block. -/
def Obligations.BusyDropsInputAndCommandWrites : Prop :=
  ∀ (s : State) (off : WindowOffset) (v : Word), s.busy = true → s.writes off v →
    inputOffset off ∨ off = 0x0C →
    ∃ t, step s = .next t ∧ t.response = some (.write .okay) ∧ State.SameBlock { s with wbusy := true } t

/-- 20_memory.md R67 and R68: an aligned write to ID, OFFSET, BINCODE, CODE, OUT or a reserved offset is answered OKAY
and changes nothing of the block. -/
def Obligations.ReadOnlyAndReservedWritesIgnored : Prop :=
  ∀ (s : State) (off : WindowOffset) (v : Word), s.writes off v → off.toNat % 4 = 0 →
    (off = 0x00 ∨ (0x18 ≤ off.toNat ∧ off.toNat < 0x40) ∨ (0x50 ≤ off.toNat ∧ off.toNat < 0x80) ∨ 0xC0 ≤ off.toNat) →
    ∃ t, step s = .next t ∧ s.SameBlock t ∧ t.response = some (.write .okay)

/-- 10_state.md R36 and R37, 20_memory.md R65: a CAND or DIGEST word reads back as written, and every other reading but
that of STATUS is as before. -/
def Obligations.BufferWordReadsBackAsWritten : Prop :=
  ∀ (s : State) (off : WindowOffset) (v : Word), s.busy = false → s.writes off v → off.toNat % 4 = 0 →
    (0x40 ≤ off.toNat ∧ off.toNat ≤ 0x4C) ∨ (0x80 ≤ off.toNat ∧ off.toNat ≤ 0xBC) →
    ∃ t, step s = .next t ∧ memRead off .four t = .read v .okay ∧
      ∀ off' size, off' ≠ off → off' ≠ 0x10 → memRead off' size t = memRead off' size s

/-! ### What every step keeps of each flag (10_state.md R30 to R40, 60_exceptions.md R170) -/

/-- 10_state.md R32: MATCH after any step. It becomes 1 only by a VALIDATE whose comparison succeeded, and stands only
where the step is no CMD write, no input write, no VALIDATE completion and no reset. From a state that meets the
invariant, MATCH = 1 after a step means that the step left the inputs and that they match. -/
def Obligations.MatchSetOnlyByValidate : Prop :=
  ∀ s t : State, step s = .next t →
    (t.matched = true ↔
      (s.completes .validate ∧ s.verdict = true) ∨
      (s.matched = true ∧ ¬s.submits ∧ ¬s.writesInput ∧ ¬s.completes .validate ∧ ¬s.resets)) ∧
    (s.Inv → t.matched = true → s.SameInputs t ∧ t.verdict = true)

/-- 10_state.md R31: DONE after any step. -/
def Obligations.DoneSetByCompletionOrRejection : Prop :=
  ∀ s t : State, step s = .next t →
    (t.done = true ↔
      (∃ i, s.completes i) ∨ (∃ code, s.rejects code) ∨
      (s.done = true ∧ (¬∃ i, s.accepts i) ∧ ¬s.acks 1 ∧ ¬s.resets))

/-- 10_state.md R34: ERR after any step is that of the most recent CMD write that was not dropped; a completion, a
dropped CMD write and every other step but reset leave it. -/
def Obligations.ErrBelongsToLastCommandWrite : Prop :=
  ∀ s t : State, step s = .next t →
    (∀ i, s.accepts i → t.err = 0) ∧ (∀ code, s.rejects code → t.err = code) ∧ (s.resets → t.err = 0) ∧
    (s.submits → (∃ i, s.accepts i) ∨ ∃ code, s.rejects code) ∧ (¬s.submits → ¬s.resets → t.err = s.err)

/-- 10_state.md R33: WBUSY after any step. -/
def Obligations.WbusySetOnlyByDroppedWrite : Prop :=
  ∀ s t : State, step s = .next t →
    (t.wbusy = true ↔ s.dropsWrite ∨ (s.wbusy = true ∧ ¬s.acks 3 ∧ ¬s.resets))

/-- 10_state.md R30 and R40: PENDING, and so BUSY, after any step: acceptance sets it to the command, completion and
reset set it to NONE, and nothing else changes it. -/
def Obligations.PendingFollowsAcceptanceAndCompletion : Prop :=
  ∀ s t : State, step s = .next t →
    (∀ i, s.accepts i → t.pending = some i) ∧ (∀ i, s.completes i → s.pending = some i ∧ t.pending = none) ∧
    (s.resets → t.pending = none) ∧
    ((¬∃ i, s.accepts i) → (¬∃ i, s.completes i) → ¬s.resets → t.pending = s.pending) ∧
    (t.busy = true ↔ t.pending ≠ none)

/-- 10_state.md R38 and R39, 70_reset_and_hazards.md R203: OFFSET, BINCODE, CODE and OUT change only at the completion
of a TRUNC or a CLEAR, and by reset. -/
def Obligations.ResultsChangeOnlyByTruncClearOrReset : Prop :=
  ∀ s t : State, step s = .next t → ¬s.completes .trunc → ¬s.completes .clear → ¬s.resets → s.SameResults t

/-- 20_memory.md R69 and R70: CFG, CANDLEN, CAND and DIGEST change only by a host write that is not dropped, at the
completion of a CLEAR, and by reset; so the inputs of a pending command cannot change before its completion. -/
def Obligations.InputsChangeOnlyByWritesClearOrReset : Prop :=
  ∀ s t : State, step s = .next t → ¬s.writesInput → ¬s.completes .clear → ¬s.resets → s.SameInputs t

/-- 60_exceptions.md R170: irq is IE AND DONE, and when it rises and when it falls. -/
def Obligations.IrqRisesAndFallsAsStated : Prop :=
  ∀ s t : State, step s = .next t →
    (t.irq = true ↔ t.ie = true ∧ t.done = true) ∧
    (s.irq = false → (t.irq = true ↔
      (s.ie = true ∧ ((∃ i, s.completes i) ∨ ∃ code, s.rejects code)) ∨
      (s.done = true ∧ ∃ v, s.writes 0x04 v ∧ v.getLsbD 0 = true))) ∧
    (s.irq = true → (t.irq = false ↔
      s.acks 1 ∨ (∃ i, s.accepts i) ∨ (∃ v, s.writes 0x04 v ∧ v.getLsbD 0 = false) ∨ s.resets))

/-! ### Invariants and runs -/

/-- The invariant of every run is kept by every step, from every state that meets it: a pending command has a legal
configuration, BUSY excludes DONE, MATCH and an error, only the defined error codes stand, MATCH = 1 means that the
current inputs match (10_state.md R32), the result registers agree with one another, and EXP fits. -/
def Obligations.EveryStepKeepsTheInvariant : Prop :=
  ∀ s t : State, s.Inv → step s = .next t → t.Inv

/-- The reset state meets the invariant. -/
def Obligations.ResetMeetsTheInvariant : Prop := State.reset.Inv

/-- 70_reset_and_hazards.md R207 with R200 and 20_memory.md R70: however many host turns come between a command's
acceptance and its completion, and whatever operations the host makes, the command stays pending, its inputs and the
result registers stay, and its completion commits the results of the inputs as they were at the start. -/
def Obligations.HostTurnsBeforeCompletionChangeNoResult : Prop :=
  ∀ (s : State) (i : Instr) (n : Nat) (rest : List Turn), s.pending = some i → s.matched = false →
    s.schedule = List.replicate n .host ++ .engine :: rest →
    ∃ u t, Sys2Proof.core.run n s = .next u ∧ Sys2Proof.core.run (n + 1) s = .next t ∧
      u.pending = some i ∧ s.SameInputs u ∧ s.SameResults u ∧ u.matched = false ∧
      t.pending = none ∧ t.done = true ∧ t.schedule = rest ∧
      (i = .nop → s.SameInputs t ∧ s.SameResults t ∧ t.matched = false) ∧
      (i = .trunc → t.offset = s.truncation.offset ∧ t.bincode = s.truncation.binCode ∧
        t.code = s.truncation.code ∧ t.out = outOf s.truncation.str ∧ s.SameInputs t) ∧
      (i = .validate → t.matched = s.verdict ∧ s.SameInputs t ∧ s.SameResults t) ∧
      (i = .clear → t.SameInputs { State.reset with hashsel := s.hashsel, digits := s.digits } ∧
        t.SameResults State.reset)

/-- 20_memory.md R72 and 70_reset_and_hazards.md R207: a `WAIT` ends. Whatever number of host turns comes first, once
the engine has moved, the host's next poll of STATUS reads BUSY = 0 and the host goes on. -/
def Obligations.WaitEndsAfterCompletion : Prop :=
  ∀ (s : State) (i : Instr) (n : Nat) (ops : List HostOp) (rest : List Turn), s.pending = some i →
    s.host = HostLine.expand .wait ++ ops →
    s.schedule = List.replicate n .host ++ .engine :: .host :: rest →
    ∃ u t w, Sys2Proof.core.run n s = .next u ∧ u.host = s.host ∧ u.pending = some i ∧
      Sys2Proof.core.run (n + 2) s = .next t ∧ t.host = ops ∧ t.schedule = rest ∧ t.pending = none ∧
      t.response = some (.read w .okay) ∧ w.toNat % 2 = 0

/-- 10_state.md R41: EXP is hidden. Two states that differ at most in EXP stay so along every run, and with the same
answers on the bus. -/
def Obligations.ExpIsUnobservable : Prop :=
  ∀ (n : Nat) (s s' : State), s.EqButExp s' →
    ∃ t t', Sys2Proof.core.run n s = .next t ∧ Sys2Proof.core.run n s' = .next t' ∧ t.EqButExp t' ∧
      t.response = t'.response ∧ t.irq = t'.irq ∧ ∀ off size, memRead off size t = memRead off size t'

/-! ### The host notation (30_encoding.md R88 to R90) -/

/-- 30_encoding.md R89: the expansion of `LDDIG` loads its bytes into DIGEST from index 0, leaves the bytes above them,
clears MATCH (where it has any byte), and changes nothing else of the block. -/
def Obligations.LddigLoadsTheDigest : Prop :=
  ∀ (s : State) (bytes : List Byte) (ops : List HostOp) (rest : List Turn),
    (HostLine.lddig bytes).wellFormed = true → s.busy = false →
    s.host = (HostLine.lddig bytes).expand ++ ops →
    s.schedule = List.replicate (bytes.length / 4) .host ++ rest →
    ∃ t, Sys2Proof.core.run (bytes.length / 4) s = .next t ∧ t.host = ops ∧ t.schedule = rest ∧
      (∀ k < bytes.length, byteAt t.digest k = bytes.getD k 0) ∧
      (∀ k, bytes.length ≤ k → byteAt t.digest k = byteAt s.digest k) ∧
      State.SameBlock { s with digest := t.digest, matched := s.matched && bytes.isEmpty } t

/-- 30_encoding.md R89: the expansion of `LDCAND` writes ceil(n/4) words, at most 4, of the string padded with 0x00 into
CAND, and then n into CANDLEN; it clears MATCH and changes nothing else of the block. -/
def Obligations.LdcandLoadsTheCandidate : Prop :=
  ∀ (s : State) (bytes : List Byte) (ops : List HostOp) (rest : List Turn),
    (HostLine.ldcand bytes).wellFormed = true → s.busy = false →
    s.host = (HostLine.ldcand bytes).expand ++ ops →
    s.schedule = List.replicate (min ((bytes.length + 3) / 4) 4 + 1) .host ++ rest →
    ∃ t, Sys2Proof.core.run (min ((bytes.length + 3) / 4) 4 + 1) s = .next t ∧ t.host = ops ∧ t.schedule = rest ∧
      (∀ k < 4 * min ((bytes.length + 3) / 4) 4, byteAt t.cand k = bytes.getD k 0) ∧
      (∀ k, 4 * min ((bytes.length + 3) / 4) 4 ≤ k → byteAt t.cand k = byteAt s.cand k) ∧
      t.candlen.toNat = bytes.length ∧
      State.SameBlock { s with cand := t.cand, candlen := t.candlen, matched := false } t

/-- 30_encoding.md R89: `SETCFG h, d` writes the word (d << 4) | h to CFG from an idle block, so that h below 4 and d
below 16 land in HASHSEL and DIGITS, and `ACK` clears DONE and WBUSY from every state. Neither changes anything else
of the block but MATCH, which SETCFG clears. -/
def Obligations.SetcfgAndAckWriteTheirFields : Prop :=
  (∀ (s : State) (h d : Nat) (ops : List HostOp) (rest : List Turn),
    (HostLine.setcfg h d).wellFormed = true → s.busy = false →
    s.host = (HostLine.setcfg h d).expand ++ ops → s.schedule = .host :: rest →
    ∃ t, step s = .next t ∧ t.host = ops ∧ t.hashsel.toNat = h % 4 ∧ t.digits.toNat = (d ||| h / 16) % 16 ∧
      (h < 4 → d < 16 → t.hashsel.toNat = h ∧ t.digits.toNat = d) ∧
      State.SameBlock { s with hashsel := t.hashsel, digits := t.digits, matched := false } t) ∧
  (∀ (s : State) (ops : List HostOp) (rest : List Turn),
    s.host = HostLine.ack.expand ++ ops → s.schedule = .host :: rest →
    ∃ t, step s = .next t ∧ t.host = ops ∧ State.SameBlock { s with done := false, wbusy := false } t)

/-- 00_scope.md R6 and 30_encoding.md R90: whatever multiple of 256 BASE is, the block sees the window offset of a bus
address BASE + offset. -/
def Obligations.BusAddressReachesItsOffset : Prop :=
  ∀ off : WindowOffset, windowOffset (busAddress off) = off ∧
    Config.base ≤ busAddress off ∧ busAddress off ≤ Config.base + 0xFF

/-! ### The `POLL` of the host notation -/

/-- 30_encoding.md R88: `POLL place, mask, value` reads the place until (rdata AND mask) = value. Whatever the place, the
mask and the value, one step of it makes one read and answers it as MemRead(place, 4) does, changes nothing of the
block (so CTRL.IE and EXP stay), uses the `POLL` up where the condition holds and leaves it the host's next operation
where it does not. With the host scheduled for n + 1 turns in a row, the condition, once it holds, is met by the first
of them, and while it does not hold all n + 1 leave the block and the `POLL` as they were. -/
def Obligations.PollReadsUntilItsConditionHolds : Prop :=
  ∀ (s : State) (off : WindowOffset) (mask value : Word) (ops : List HostOp),
    s.host = .poll off mask value :: ops →
    (s.nextMove = .bus (.poll off mask value) →
      ∃ t w r, step s = .next t ∧ s.SameBlock t ∧ t.response = some (.read w r) ∧ memRead off .four s = .read w r ∧
        (w &&& mask = value → t.host = ops) ∧ (w &&& mask ≠ value → t.host = s.host)) ∧
    (∀ (n : Nat) (rest : List Turn) (w : Word) (r : Resp), s.schedule = List.replicate (n + 1) .host ++ rest →
      memRead off .four s = .read w r →
      (w &&& mask = value → ∃ t, step s = .next t ∧ t.host = ops ∧ t.schedule = List.replicate n .host ++ rest) ∧
      (w &&& mask ≠ value → ∃ t, Sys2Proof.core.run (n + 1) s = .next t ∧ s.SameBlock t ∧ t.host = s.host ∧
        t.schedule = rest ∧ t.response = some (.read w r)))
end

