-- ==== Sys2Proof/Laws/Decode.lean ====
section
/-! SUPPORT. The small lemmas of the decoder and the encoder. -/

namespace Sys2Proof

/-- The number of a concatenation of two bit strings. -/
theorem toNat_append_add {m n : Nat} (x : BitVec m) (y : BitVec n) : (x ++ y).toNat = x.toNat * 2 ^ n + y.toNat := by
  rw [BitVec.toNat_append, ← Nat.shiftLeft_add_eq_or_of_lt y.isLt, Nat.shiftLeft_eq]

/-- The number of a bit field. -/
theorem toNat_extract {n : Nat} (x : BitVec n) (lo w : Nat) : (x.extractLsb' lo w).toNat = x.toNat / 2 ^ lo % 2 ^ w := by
  rw [BitVec.extractLsb'_toNat, Nat.shiftRight_eq_div_pow]

/-- A command word is its two fields (30_encoding.md R81). -/
theorem word_eq_fields (w : Word) : w = rsvdField w ++ opcodeField w := by
  apply BitVec.eq_of_toNat_eq
  rw [toNat_append_add, rsvdField, opcodeField, toNat_extract, toNat_extract]
  have := w.isLt
  omega

@[simp] theorem rsvdField_encode (i : Instr) : rsvdField (encode i) = 0 := by cases i <;> rfl

@[simp] theorem opcodeField_encode (i : Instr) : opcodeField (encode i) = i.opcode := by cases i <;> rfl

/-- The opcode map read backwards (30_encoding.md R82). -/
theorem decodeOpcode_eq_ok {op : BitVec 4} {i : Instr} : decodeOpcode op = .ok i ↔ op = i.opcode := by
  revert op i
  have h : ∀ op : BitVec 4, ∀ i : Instr, decodeOpcode op = .ok i ↔ op = i.opcode := by
    intro op i
    cases i <;> revert op <;> decide
  exact fun {op i} => h op i

/-- The number of a word is that of its bytes, the first the least significant (20_memory.md R65). -/
theorem toNat_wordOfBytes (b0 b1 b2 b3 : Byte) :
    (wordOfBytes b0 b1 b2 b3).toNat = b0.toNat + b1.toNat * 2 ^ 8 + b2.toNat * 2 ^ 16 + b3.toNat * 2 ^ 24 := by
  simp only [wordOfBytes, toNat_append_add]
  omega

/-- The four bytes of a word and the word of four bytes (20_memory.md R65). -/
theorem bytesOfWord_wordOfBytes (b0 b1 b2 b3 : Byte) : bytesOfWord (wordOfBytes b0 b1 b2 b3) = [b0, b1, b2, b3] := by
  have h0 := b0.isLt
  have h1 := b1.isLt
  have h2 := b2.isLt
  have h3 := b3.isLt
  simp only [bytesOfWord, List.cons.injEq, and_true]
  refine ⟨?_, ?_, ?_, ?_⟩ <;> apply BitVec.eq_of_toNat_eq <;> rw [toNat_extract, toNat_wordOfBytes] <;> omega

/-- The word of a word's four bytes is the word (20_memory.md R65). -/
theorem wordOfBytes_extract (v : Word) :
    wordOfBytes (v.extractLsb' 0 8) (v.extractLsb' 8 8) (v.extractLsb' 16 8) (v.extractLsb' 24 8) = v := by
  have hv := v.isLt
  apply BitVec.eq_of_toNat_eq
  simp only [toNat_wordOfBytes, toNat_extract]
  omega

end Sys2Proof
end

