-- ==== Sys2Proof/Laws/State.lean ====
section
/-! SUPPORT. One lemma per field per named update of the state, each true by unfolding, so that no later proof unfolds
a record update. -/

namespace Sys2Proof.Machine

/-! ### dropWrite -/

@[simp] theorem dropWrite_ie (s : State) : (dropWrite s).ie = s.ie := rfl
@[simp] theorem dropWrite_hashsel (s : State) : (dropWrite s).hashsel = s.hashsel := rfl
@[simp] theorem dropWrite_digits (s : State) : (dropWrite s).digits = s.digits := rfl
@[simp] theorem dropWrite_done (s : State) : (dropWrite s).done = s.done := rfl
@[simp] theorem dropWrite_matched (s : State) : (dropWrite s).matched = s.matched := rfl
@[simp] theorem dropWrite_wbusy (s : State) : (dropWrite s).wbusy = true := rfl
@[simp] theorem dropWrite_err (s : State) : (dropWrite s).err = s.err := rfl
@[simp] theorem dropWrite_candlen (s : State) : (dropWrite s).candlen = s.candlen := rfl
@[simp] theorem dropWrite_cand (s : State) : (dropWrite s).cand = s.cand := rfl
@[simp] theorem dropWrite_digest (s : State) : (dropWrite s).digest = s.digest := rfl
@[simp] theorem dropWrite_offset (s : State) : (dropWrite s).offset = s.offset := rfl
@[simp] theorem dropWrite_bincode (s : State) : (dropWrite s).bincode = s.bincode := rfl
@[simp] theorem dropWrite_code (s : State) : (dropWrite s).code = s.code := rfl
@[simp] theorem dropWrite_out (s : State) : (dropWrite s).out = s.out := rfl
@[simp] theorem dropWrite_pending (s : State) : (dropWrite s).pending = s.pending := rfl
@[simp] theorem dropWrite_exp (s : State) : (dropWrite s).exp = s.exp := rfl
@[simp] theorem dropWrite_response (s : State) : (dropWrite s).response = s.response := rfl
@[simp] theorem dropWrite_host (s : State) : (dropWrite s).host = s.host := rfl
@[simp] theorem dropWrite_schedule (s : State) : (dropWrite s).schedule = s.schedule := rfl
@[simp] theorem dropWrite_mover (s : State) : (dropWrite s).mover = s.mover := rfl
@[simp] theorem dropWrite_draws (s : State) : (dropWrite s).draws = s.draws := rfl

/-! ### writeStatus -/

@[simp] theorem writeStatus_ie (v : Word) (s : State) : (writeStatus v s).ie = s.ie := rfl
@[simp] theorem writeStatus_hashsel (v : Word) (s : State) : (writeStatus v s).hashsel = s.hashsel := rfl
@[simp] theorem writeStatus_digits (v : Word) (s : State) : (writeStatus v s).digits = s.digits := rfl
@[simp] theorem writeStatus_done (v : Word) (s : State) : (writeStatus v s).done = (s.done && !v.getLsbD 1) := rfl
@[simp] theorem writeStatus_matched (v : Word) (s : State) : (writeStatus v s).matched = s.matched := rfl
@[simp] theorem writeStatus_wbusy (v : Word) (s : State) : (writeStatus v s).wbusy = (s.wbusy && !v.getLsbD 3) := rfl
@[simp] theorem writeStatus_err (v : Word) (s : State) : (writeStatus v s).err = s.err := rfl
@[simp] theorem writeStatus_candlen (v : Word) (s : State) : (writeStatus v s).candlen = s.candlen := rfl
@[simp] theorem writeStatus_cand (v : Word) (s : State) : (writeStatus v s).cand = s.cand := rfl
@[simp] theorem writeStatus_digest (v : Word) (s : State) : (writeStatus v s).digest = s.digest := rfl
@[simp] theorem writeStatus_offset (v : Word) (s : State) : (writeStatus v s).offset = s.offset := rfl
@[simp] theorem writeStatus_bincode (v : Word) (s : State) : (writeStatus v s).bincode = s.bincode := rfl
@[simp] theorem writeStatus_code (v : Word) (s : State) : (writeStatus v s).code = s.code := rfl
@[simp] theorem writeStatus_out (v : Word) (s : State) : (writeStatus v s).out = s.out := rfl
@[simp] theorem writeStatus_pending (v : Word) (s : State) : (writeStatus v s).pending = s.pending := rfl
@[simp] theorem writeStatus_exp (v : Word) (s : State) : (writeStatus v s).exp = s.exp := rfl
@[simp] theorem writeStatus_response (v : Word) (s : State) : (writeStatus v s).response = s.response := rfl
@[simp] theorem writeStatus_host (v : Word) (s : State) : (writeStatus v s).host = s.host := rfl
@[simp] theorem writeStatus_schedule (v : Word) (s : State) : (writeStatus v s).schedule = s.schedule := rfl
@[simp] theorem writeStatus_mover (v : Word) (s : State) : (writeStatus v s).mover = s.mover := rfl
@[simp] theorem writeStatus_draws (v : Word) (s : State) : (writeStatus v s).draws = s.draws := rfl

/-! ### raiseCmdError -/

@[simp] theorem raiseCmdError_ie (e : CmdError) (s : State) : (raiseCmdError e s).ie = s.ie := rfl
@[simp] theorem raiseCmdError_hashsel (e : CmdError) (s : State) : (raiseCmdError e s).hashsel = s.hashsel := rfl
@[simp] theorem raiseCmdError_digits (e : CmdError) (s : State) : (raiseCmdError e s).digits = s.digits := rfl
@[simp] theorem raiseCmdError_done (e : CmdError) (s : State) : (raiseCmdError e s).done = true := rfl
@[simp] theorem raiseCmdError_matched (e : CmdError) (s : State) : (raiseCmdError e s).matched = s.matched := rfl
@[simp] theorem raiseCmdError_wbusy (e : CmdError) (s : State) : (raiseCmdError e s).wbusy = s.wbusy := rfl
@[simp] theorem raiseCmdError_err (e : CmdError) (s : State) : (raiseCmdError e s).err = e.bits := rfl
@[simp] theorem raiseCmdError_candlen (e : CmdError) (s : State) : (raiseCmdError e s).candlen = s.candlen := rfl
@[simp] theorem raiseCmdError_cand (e : CmdError) (s : State) : (raiseCmdError e s).cand = s.cand := rfl
@[simp] theorem raiseCmdError_digest (e : CmdError) (s : State) : (raiseCmdError e s).digest = s.digest := rfl
@[simp] theorem raiseCmdError_offset (e : CmdError) (s : State) : (raiseCmdError e s).offset = s.offset := rfl
@[simp] theorem raiseCmdError_bincode (e : CmdError) (s : State) : (raiseCmdError e s).bincode = s.bincode := rfl
@[simp] theorem raiseCmdError_code (e : CmdError) (s : State) : (raiseCmdError e s).code = s.code := rfl
@[simp] theorem raiseCmdError_out (e : CmdError) (s : State) : (raiseCmdError e s).out = s.out := rfl
@[simp] theorem raiseCmdError_pending (e : CmdError) (s : State) : (raiseCmdError e s).pending = s.pending := rfl
@[simp] theorem raiseCmdError_exp (e : CmdError) (s : State) : (raiseCmdError e s).exp = s.exp := rfl
@[simp] theorem raiseCmdError_response (e : CmdError) (s : State) : (raiseCmdError e s).response = s.response := rfl
@[simp] theorem raiseCmdError_host (e : CmdError) (s : State) : (raiseCmdError e s).host = s.host := rfl
@[simp] theorem raiseCmdError_schedule (e : CmdError) (s : State) : (raiseCmdError e s).schedule = s.schedule := rfl
@[simp] theorem raiseCmdError_mover (e : CmdError) (s : State) : (raiseCmdError e s).mover = s.mover := rfl
@[simp] theorem raiseCmdError_draws (e : CmdError) (s : State) : (raiseCmdError e s).draws = s.draws := rfl

/-! ### accept -/

@[simp] theorem accept_ie (i : Instr) (s : State) : (accept i s).ie = s.ie := rfl
@[simp] theorem accept_hashsel (i : Instr) (s : State) : (accept i s).hashsel = s.hashsel := rfl
@[simp] theorem accept_digits (i : Instr) (s : State) : (accept i s).digits = s.digits := rfl
@[simp] theorem accept_done (i : Instr) (s : State) : (accept i s).done = false := rfl
@[simp] theorem accept_matched (i : Instr) (s : State) : (accept i s).matched = s.matched := rfl
@[simp] theorem accept_wbusy (i : Instr) (s : State) : (accept i s).wbusy = s.wbusy := rfl
@[simp] theorem accept_err (i : Instr) (s : State) : (accept i s).err = errNone := rfl
@[simp] theorem accept_candlen (i : Instr) (s : State) : (accept i s).candlen = s.candlen := rfl
@[simp] theorem accept_cand (i : Instr) (s : State) : (accept i s).cand = s.cand := rfl
@[simp] theorem accept_digest (i : Instr) (s : State) : (accept i s).digest = s.digest := rfl
@[simp] theorem accept_offset (i : Instr) (s : State) : (accept i s).offset = s.offset := rfl
@[simp] theorem accept_bincode (i : Instr) (s : State) : (accept i s).bincode = s.bincode := rfl
@[simp] theorem accept_code (i : Instr) (s : State) : (accept i s).code = s.code := rfl
@[simp] theorem accept_out (i : Instr) (s : State) : (accept i s).out = s.out := rfl
@[simp] theorem accept_pending (i : Instr) (s : State) : (accept i s).pending = some i := rfl
@[simp] theorem accept_exp (i : Instr) (s : State) : (accept i s).exp = s.exp := rfl
@[simp] theorem accept_response (i : Instr) (s : State) : (accept i s).response = s.response := rfl
@[simp] theorem accept_host (i : Instr) (s : State) : (accept i s).host = s.host := rfl
@[simp] theorem accept_schedule (i : Instr) (s : State) : (accept i s).schedule = s.schedule := rfl
@[simp] theorem accept_mover (i : Instr) (s : State) : (accept i s).mover = s.mover := rfl
@[simp] theorem accept_draws (i : Instr) (s : State) : (accept i s).draws = s.draws := rfl

/-! ### truncCommit -/

@[simp] theorem truncCommit_ie (s : State) : (truncCommit s).ie = s.ie := rfl
@[simp] theorem truncCommit_hashsel (s : State) : (truncCommit s).hashsel = s.hashsel := rfl
@[simp] theorem truncCommit_digits (s : State) : (truncCommit s).digits = s.digits := rfl
@[simp] theorem truncCommit_done (s : State) : (truncCommit s).done = s.done := rfl
@[simp] theorem truncCommit_matched (s : State) : (truncCommit s).matched = s.matched := rfl
@[simp] theorem truncCommit_wbusy (s : State) : (truncCommit s).wbusy = s.wbusy := rfl
@[simp] theorem truncCommit_err (s : State) : (truncCommit s).err = s.err := rfl
@[simp] theorem truncCommit_candlen (s : State) : (truncCommit s).candlen = s.candlen := rfl
@[simp] theorem truncCommit_cand (s : State) : (truncCommit s).cand = s.cand := rfl
@[simp] theorem truncCommit_digest (s : State) : (truncCommit s).digest = s.digest := rfl
@[simp] theorem truncCommit_offset (s : State) : (truncCommit s).offset = s.truncation.offset := rfl
@[simp] theorem truncCommit_bincode (s : State) : (truncCommit s).bincode = s.truncation.binCode := rfl
@[simp] theorem truncCommit_code (s : State) : (truncCommit s).code = s.truncation.code := rfl
@[simp] theorem truncCommit_out (s : State) : (truncCommit s).out = outOf s.truncation.str := rfl
@[simp] theorem truncCommit_pending (s : State) : (truncCommit s).pending = s.pending := rfl
@[simp] theorem truncCommit_exp (s : State) : (truncCommit s).exp = s.exp := rfl
@[simp] theorem truncCommit_response (s : State) : (truncCommit s).response = s.response := rfl
@[simp] theorem truncCommit_host (s : State) : (truncCommit s).host = s.host := rfl
@[simp] theorem truncCommit_schedule (s : State) : (truncCommit s).schedule = s.schedule := rfl
@[simp] theorem truncCommit_mover (s : State) : (truncCommit s).mover = s.mover := rfl
@[simp] theorem truncCommit_draws (s : State) : (truncCommit s).draws = s.draws := rfl

/-! ### validateCommit -/

@[simp] theorem validateCommit_ie (s : State) : (validateCommit s).ie = s.ie := rfl
@[simp] theorem validateCommit_hashsel (s : State) : (validateCommit s).hashsel = s.hashsel := rfl
@[simp] theorem validateCommit_digits (s : State) : (validateCommit s).digits = s.digits := rfl
@[simp] theorem validateCommit_done (s : State) : (validateCommit s).done = s.done := rfl
@[simp] theorem validateCommit_matched (s : State) : (validateCommit s).matched = s.verdict := rfl
@[simp] theorem validateCommit_wbusy (s : State) : (validateCommit s).wbusy = s.wbusy := rfl
@[simp] theorem validateCommit_err (s : State) : (validateCommit s).err = s.err := rfl
@[simp] theorem validateCommit_candlen (s : State) : (validateCommit s).candlen = s.candlen := rfl
@[simp] theorem validateCommit_cand (s : State) : (validateCommit s).cand = s.cand := rfl
@[simp] theorem validateCommit_digest (s : State) : (validateCommit s).digest = s.digest := rfl
@[simp] theorem validateCommit_offset (s : State) : (validateCommit s).offset = s.offset := rfl
@[simp] theorem validateCommit_bincode (s : State) : (validateCommit s).bincode = s.bincode := rfl
@[simp] theorem validateCommit_code (s : State) : (validateCommit s).code = s.code := rfl
@[simp] theorem validateCommit_out (s : State) : (validateCommit s).out = s.out := rfl
@[simp] theorem validateCommit_pending (s : State) : (validateCommit s).pending = s.pending := rfl
@[simp] theorem validateCommit_exp (s : State) : (validateCommit s).exp = s.truncation.str := rfl
@[simp] theorem validateCommit_response (s : State) : (validateCommit s).response = s.response := rfl
@[simp] theorem validateCommit_host (s : State) : (validateCommit s).host = s.host := rfl
@[simp] theorem validateCommit_schedule (s : State) : (validateCommit s).schedule = s.schedule := rfl
@[simp] theorem validateCommit_mover (s : State) : (validateCommit s).mover = s.mover := rfl
@[simp] theorem validateCommit_draws (s : State) : (validateCommit s).draws = s.draws := rfl

/-! ### clearCommit -/

@[simp] theorem clearCommit_ie (s : State) : (clearCommit s).ie = s.ie := rfl
@[simp] theorem clearCommit_hashsel (s : State) : (clearCommit s).hashsel = s.hashsel := rfl
@[simp] theorem clearCommit_digits (s : State) : (clearCommit s).digits = s.digits := rfl
@[simp] theorem clearCommit_done (s : State) : (clearCommit s).done = s.done := rfl
@[simp] theorem clearCommit_matched (s : State) : (clearCommit s).matched = s.matched := rfl
@[simp] theorem clearCommit_wbusy (s : State) : (clearCommit s).wbusy = s.wbusy := rfl
@[simp] theorem clearCommit_err (s : State) : (clearCommit s).err = s.err := rfl
@[simp] theorem clearCommit_candlen (s : State) : (clearCommit s).candlen = 0 := rfl
@[simp] theorem clearCommit_cand (s : State) : (clearCommit s).cand = Vector.replicate Config.candMax 0 := rfl
@[simp] theorem clearCommit_digest (s : State) : (clearCommit s).digest = Vector.replicate Config.digestMax 0 := rfl
@[simp] theorem clearCommit_offset (s : State) : (clearCommit s).offset = 0 := rfl
@[simp] theorem clearCommit_bincode (s : State) : (clearCommit s).bincode = 0 := rfl
@[simp] theorem clearCommit_code (s : State) : (clearCommit s).code = 0 := rfl
@[simp] theorem clearCommit_out (s : State) : (clearCommit s).out = Vector.replicate Config.outMax 0 := rfl
@[simp] theorem clearCommit_pending (s : State) : (clearCommit s).pending = s.pending := rfl
@[simp] theorem clearCommit_exp (s : State) : (clearCommit s).exp = List.replicate Config.expMax 0 := rfl
@[simp] theorem clearCommit_response (s : State) : (clearCommit s).response = s.response := rfl
@[simp] theorem clearCommit_host (s : State) : (clearCommit s).host = s.host := rfl
@[simp] theorem clearCommit_schedule (s : State) : (clearCommit s).schedule = s.schedule := rfl
@[simp] theorem clearCommit_mover (s : State) : (clearCommit s).mover = s.mover := rfl
@[simp] theorem clearCommit_draws (s : State) : (clearCommit s).draws = s.draws := rfl

/-! ### nopCommit -/

@[simp] theorem nopCommit_ie (s : State) : (nopCommit s).ie = s.ie := rfl
@[simp] theorem nopCommit_hashsel (s : State) : (nopCommit s).hashsel = s.hashsel := rfl
@[simp] theorem nopCommit_digits (s : State) : (nopCommit s).digits = s.digits := rfl
@[simp] theorem nopCommit_done (s : State) : (nopCommit s).done = s.done := rfl
@[simp] theorem nopCommit_matched (s : State) : (nopCommit s).matched = s.matched := rfl
@[simp] theorem nopCommit_wbusy (s : State) : (nopCommit s).wbusy = s.wbusy := rfl
@[simp] theorem nopCommit_err (s : State) : (nopCommit s).err = s.err := rfl
@[simp] theorem nopCommit_candlen (s : State) : (nopCommit s).candlen = s.candlen := rfl
@[simp] theorem nopCommit_cand (s : State) : (nopCommit s).cand = s.cand := rfl
@[simp] theorem nopCommit_digest (s : State) : (nopCommit s).digest = s.digest := rfl
@[simp] theorem nopCommit_offset (s : State) : (nopCommit s).offset = s.offset := rfl
@[simp] theorem nopCommit_bincode (s : State) : (nopCommit s).bincode = s.bincode := rfl
@[simp] theorem nopCommit_code (s : State) : (nopCommit s).code = s.code := rfl
@[simp] theorem nopCommit_out (s : State) : (nopCommit s).out = s.out := rfl
@[simp] theorem nopCommit_pending (s : State) : (nopCommit s).pending = s.pending := rfl
@[simp] theorem nopCommit_exp (s : State) : (nopCommit s).exp = s.exp := rfl
@[simp] theorem nopCommit_response (s : State) : (nopCommit s).response = s.response := rfl
@[simp] theorem nopCommit_host (s : State) : (nopCommit s).host = s.host := rfl
@[simp] theorem nopCommit_schedule (s : State) : (nopCommit s).schedule = s.schedule := rfl
@[simp] theorem nopCommit_mover (s : State) : (nopCommit s).mover = s.mover := rfl
@[simp] theorem nopCommit_draws (s : State) : (nopCommit s).draws = s.draws := rfl

/-! ### idleCycle -/

@[simp] theorem idleCycle_ie (s : State) : (idleCycle s).ie = s.ie := rfl
@[simp] theorem idleCycle_hashsel (s : State) : (idleCycle s).hashsel = s.hashsel := rfl
@[simp] theorem idleCycle_digits (s : State) : (idleCycle s).digits = s.digits := rfl
@[simp] theorem idleCycle_done (s : State) : (idleCycle s).done = s.done := rfl
@[simp] theorem idleCycle_matched (s : State) : (idleCycle s).matched = s.matched := rfl
@[simp] theorem idleCycle_wbusy (s : State) : (idleCycle s).wbusy = s.wbusy := rfl
@[simp] theorem idleCycle_err (s : State) : (idleCycle s).err = s.err := rfl
@[simp] theorem idleCycle_candlen (s : State) : (idleCycle s).candlen = s.candlen := rfl
@[simp] theorem idleCycle_cand (s : State) : (idleCycle s).cand = s.cand := rfl
@[simp] theorem idleCycle_digest (s : State) : (idleCycle s).digest = s.digest := rfl
@[simp] theorem idleCycle_offset (s : State) : (idleCycle s).offset = s.offset := rfl
@[simp] theorem idleCycle_bincode (s : State) : (idleCycle s).bincode = s.bincode := rfl
@[simp] theorem idleCycle_code (s : State) : (idleCycle s).code = s.code := rfl
@[simp] theorem idleCycle_out (s : State) : (idleCycle s).out = s.out := rfl
@[simp] theorem idleCycle_pending (s : State) : (idleCycle s).pending = s.pending := rfl
@[simp] theorem idleCycle_exp (s : State) : (idleCycle s).exp = s.exp := rfl
@[simp] theorem idleCycle_response (s : State) : (idleCycle s).response = none := rfl
@[simp] theorem idleCycle_host (s : State) : (idleCycle s).host = s.host := rfl
@[simp] theorem idleCycle_schedule (s : State) : (idleCycle s).schedule = s.schedule := rfl
@[simp] theorem idleCycle_mover (s : State) : (idleCycle s).mover = s.mover := rfl
@[simp] theorem idleCycle_draws (s : State) : (idleCycle s).draws = s.draws := rfl

/-! ### resetBlock -/

@[simp] theorem resetBlock_ie (s : State) : (resetBlock s).ie = State.reset.ie := rfl
@[simp] theorem resetBlock_hashsel (s : State) : (resetBlock s).hashsel = State.reset.hashsel := rfl
@[simp] theorem resetBlock_digits (s : State) : (resetBlock s).digits = State.reset.digits := rfl
@[simp] theorem resetBlock_done (s : State) : (resetBlock s).done = State.reset.done := rfl
@[simp] theorem resetBlock_matched (s : State) : (resetBlock s).matched = State.reset.matched := rfl
@[simp] theorem resetBlock_wbusy (s : State) : (resetBlock s).wbusy = State.reset.wbusy := rfl
@[simp] theorem resetBlock_err (s : State) : (resetBlock s).err = State.reset.err := rfl
@[simp] theorem resetBlock_candlen (s : State) : (resetBlock s).candlen = State.reset.candlen := rfl
@[simp] theorem resetBlock_cand (s : State) : (resetBlock s).cand = State.reset.cand := rfl
@[simp] theorem resetBlock_digest (s : State) : (resetBlock s).digest = State.reset.digest := rfl
@[simp] theorem resetBlock_offset (s : State) : (resetBlock s).offset = State.reset.offset := rfl
@[simp] theorem resetBlock_bincode (s : State) : (resetBlock s).bincode = State.reset.bincode := rfl
@[simp] theorem resetBlock_code (s : State) : (resetBlock s).code = State.reset.code := rfl
@[simp] theorem resetBlock_out (s : State) : (resetBlock s).out = State.reset.out := rfl
@[simp] theorem resetBlock_pending (s : State) : (resetBlock s).pending = State.reset.pending := rfl
@[simp] theorem resetBlock_exp (s : State) : (resetBlock s).exp = State.reset.exp := rfl
@[simp] theorem resetBlock_response (s : State) : (resetBlock s).response = State.reset.response := rfl
@[simp] theorem resetBlock_host (s : State) : (resetBlock s).host = s.host := rfl
@[simp] theorem resetBlock_schedule (s : State) : (resetBlock s).schedule = s.schedule := rfl
@[simp] theorem resetBlock_mover (s : State) : (resetBlock s).mover = s.mover := rfl
@[simp] theorem resetBlock_draws (s : State) : (resetBlock s).draws = s.draws := rfl

end Sys2Proof.Machine
end

