-- ==== Sys2Proof/Laws/Ops.lean ====
section
/-! SUPPORT. One lemma per shared operation that says what it can do: byte lanes and buffers, the register window, the
life of a command. -/

namespace Sys2Proof.Machine

/-! ### Buffers and byte lanes -/

theorem byteAt_of_lt {n : Nat} (b : Vector Byte n) {i : Nat} (h : i < n) : byteAt b i = b[i] := by
  simp [byteAt, h]

/-- A buffer is what its bytes are. -/
theorem ext_byteAt {n : Nat} {a b : Vector Byte n} (h : ∀ i < n, byteAt a i = byteAt b i) : a = b := by
  apply Vector.ext
  intro i hi
  simpa [byteAt, hi] using h i hi

@[simp] theorem byteAt_replicate (n i : Nat) : byteAt (Vector.replicate n 0#8) i = 0#8 := by
  simp [byteAt]

theorem byteAt_setIfInBounds {n : Nat} (b : Vector Byte n) (i j : Nat) (v : Byte) :
    byteAt (b.setIfInBounds i v) j = if i = j ∧ j < n then v else byteAt b j := by
  unfold byteAt
  split
  · rename_i hj
    simp [Vector.getElem_setIfInBounds, hj]
  · rename_i hj
    simp [hj]

/-- A buffer word write changes exactly its four bytes (20_memory.md R64). -/
theorem byteAt_putLanes {n : Nat} (b : Vector Byte n) {k : Nat} (hk : k + 3 < n) (v : Word) (i : Nat) :
    byteAt (putLanes b k v) i =
      if k ≤ i ∧ i ≤ k + 3 then v.extractLsb' (8 * (i - k)) 8 else byteAt b i := by
  simp only [putLanes, byteAt_setIfInBounds]
  by_cases h : k ≤ i ∧ i ≤ k + 3
  · obtain ⟨j, rfl⟩ := Nat.exists_eq_add_of_le h.1
    have hj : j = 0 ∨ j = 1 ∨ j = 2 ∨ j = 3 := by omega
    rcases hj with rfl | rfl | rfl | rfl <;> simp <;> omega
  · simp only [h, if_false]
    repeat' split
    all_goals first | rfl | omega

/-- Reading the word just written gives it back (20_memory.md R65). -/
theorem lanes_putLanes_self {n : Nat} (b : Vector Byte n) {k : Nat} (hk : k + 3 < n) (v : Word) :
    lanes (putLanes b k v) k = v := by
  have h := byteAt_putLanes b hk v
  simp only [lanes, h]
  simpa using wordOfBytes_extract v

/-- Writing a word leaves every other word alone. -/
theorem lanes_putLanes_other {n : Nat} (b : Vector Byte n) {k k' : Nat} (hk : k + 3 < n) (v : Word)
    (hd : k + 3 < k' ∨ k' + 3 < k) : lanes (putLanes b k v) k' = lanes b k' := by
  have h : ∀ i, ¬(k ≤ i ∧ i ≤ k + 3) → byteAt (putLanes b k v) i = byteAt b i := fun i hi => by
    rw [byteAt_putLanes b hk, if_neg hi]
  simp only [lanes]
  rw [h _ (by omega), h _ (by omega), h _ (by omega), h _ (by omega)]

/-- OUT holds the string and 0x00 above it (40_truncation.md R107). -/
theorem byteAt_outOf (str : List Byte) {i : Nat} (h : i < 12) : byteAt (outOf str) i = str.getD i 0 := by
  simp [byteAt, outOf, h]

/-! ### Legality of the configuration -/

/-- The selector is legal exactly when it is not 0b11 (10_state.md R26). -/
theorem hashLegal_iff (h : BitVec 2) : hashLegal h = true ↔ h ≠ 3 := by simp [hashLegal]

/-- The digit count is legal exactly from 1 to 10 (10_state.md R27). -/
theorem digitsLegal_iff (d : BitVec 4) : digitsLegal d = true ↔ 1 ≤ d.toNat ∧ d.toNat ≤ 10 := by
  simp only [digitsLegal, Bool.and_eq_true, decide_eq_true_iff]
  exact Iff.rfl

/-! ### The register window -/

/-- The slots that accept a store drop it while BUSY, and otherwise clear MATCH (20_memory.md R70). -/
theorem writeInput_cases (store : State → State) (s : State) :
    (s.busy = true ∧ writeInput store s = dropWrite s) ∨
    (s.busy = false ∧ writeInput store s = { store s with matched := false }) := by
  cases hb : s.busy <;> simp [writeInput, hb]

/-- CTRL, CMD and STATUS are at their offsets and nowhere else (10_state.md R22). -/
theorem slotOf_ctrl {off : WindowOffset} : slotOf off = .ctrl ↔ off = 0x04 := by revert off; decide
theorem slotOf_cmd {off : WindowOffset} : slotOf off = .cmd ↔ off = 0x0C := by revert off; decide
theorem slotOf_status {off : WindowOffset} : slotOf off = .status ↔ off = 0x10 := by revert off; decide

/-- The slots of the input registers (10_state.md R21). -/
def Slot.isInput : Slot → Bool
  | .cfg | .candlen | .cand _ | .digest _ => true
  | .id | .ctrl | .cmd | .status | .offset | .bincode | .code | .out _ | .reserved => false

/-- The input slots are the ones at the input offsets (10_state.md R22). -/
theorem slotOf_isInput {off : WindowOffset} (ha : off.toNat % 4 = 0) :
    (slotOf off).isInput = true ↔ inputOffset off := by
  have h : ∀ off : WindowOffset, off.toNat % 4 = 0 → ((slotOf off).isInput = true ↔ off.toNat % 4 = 0 ∧
      (off = 0x08 ∨ off = 0x14 ∨ (0x40 ≤ off.toNat ∧ off.toNat ≤ 0x4C) ∨
        (0x80 ≤ off.toNat ∧ off.toNat ≤ 0xBC))) := by decide
  exact h off ha

/-- Everything a served write to a slot other than CMD can do (20_memory.md R64). -/
theorem writeSlot_cases (slot : Slot) (v : Word) (s : State) :
    (slot ≠ .ctrl ∧ slot ≠ .status ∧ slot.isInput = false ∧ writeSlot slot v s = s) ∨
    (slot = .ctrl ∧ writeSlot slot v s = { s with ie := v.getLsbD 0 }) ∨
    (slot = .status ∧ writeSlot slot v s = writeStatus v s) ∨
    (slot.isInput = true ∧
      ((s.busy = true ∧ writeSlot slot v s = dropWrite s) ∨
       (s.busy = false ∧ ∃ h d n c g, writeSlot slot v s =
          { s with hashsel := h, digits := d, candlen := n, cand := c, digest := g, matched := false }))) := by
  cases slot
  case ctrl => exact .inr (.inl ⟨rfl, rfl⟩)
  case status => exact .inr (.inr (.inl ⟨rfl, rfl⟩))
  case cfg =>
    refine .inr (.inr (.inr ⟨rfl, ?_⟩))
    rcases writeInput_cases (fun s => { s with hashsel := v.extractLsb' 0 2, digits := v.extractLsb' 4 4 }) s with h | h
    · exact .inl h
    · exact .inr ⟨h.1, _, _, s.candlen, s.cand, s.digest, h.2⟩
  case candlen =>
    refine .inr (.inr (.inr ⟨rfl, ?_⟩))
    rcases writeInput_cases (fun s => { s with candlen := v.extractLsb' 0 8 }) s with h | h
    · exact .inl h
    · exact .inr ⟨h.1, s.hashsel, s.digits, _, s.cand, s.digest, h.2⟩
  case cand k =>
    refine .inr (.inr (.inr ⟨rfl, ?_⟩))
    rcases writeInput_cases (fun s => { s with cand := putLanes s.cand k v }) s with h | h
    · exact .inl h
    · exact .inr ⟨h.1, s.hashsel, s.digits, s.candlen, _, s.digest, h.2⟩
  case digest k =>
    refine .inr (.inr (.inr ⟨rfl, ?_⟩))
    rcases writeInput_cases (fun s => { s with digest := putLanes s.digest k v }) s with h | h
    · exact .inl h
    · exact .inr ⟨h.1, s.hashsel, s.digits, s.candlen, s.cand, _, h.2⟩
  all_goals exact .inl ⟨nofun, nofun, rfl, rfl⟩

/-! ### The life of a command -/

/-- A command's own part of its completion (30_encoding.md R85). -/
def commitOf : Instr → State → State
  | .nop => nopCommit
  | .trunc => truncCommit
  | .validate => validateCommit
  | .clear => clearCommit

/-- Every meaning is the command's two steps over its own commit. -/
theorem exec_eq_runCommand (i : Instr) (s : State) : exec i s = .next (runCommand i (commitOf i) s) := by
  cases i <;> rfl

theorem exec_host (i : Instr) {s : State} (h : s.mover = .host) : exec i s = .next (submit i s) := by
  rw [exec_eq_runCommand, runCommand, h]

theorem exec_engine (i : Instr) {s : State} (h : s.mover = .engine) :
    exec i s = .next (complete i (commitOf i) s) := by
  rw [exec_eq_runCommand, runCommand, h]

/-- Everything the submission of a command can do (30_encoding.md R84). -/
theorem submit_cases (i : Instr) (s : State) :
    (s.busy = true ∧ submit i s = dropWrite s) ∨
    (s.busy = false ∧ checksCfg i = true ∧ hashLegal s.hashsel = false ∧
      submit i s = raiseCmdError .badhash { s with matched := false }) ∨
    (s.busy = false ∧ checksCfg i = true ∧ hashLegal s.hashsel = true ∧ digitsLegal s.digits = false ∧
      submit i s = raiseCmdError .baddigits { s with matched := false }) ∨
    (s.busy = false ∧ cfgLegalFor i s = true ∧ submit i s = accept i { s with matched := false }) := by
  cases hb : s.busy <;> cases hc : checksCfg i <;> cases hh : hashLegal s.hashsel <;>
    cases hd : digitsLegal s.digits <;> simp [submit, checkAndAccept, cfgLegalFor, hb, hc, hh, hd]

/-- Completion of a pending command (30_encoding.md R85). -/
theorem complete_of_pending {i : Instr} {s : State} (h : s.pending = some i) (commit : State → State) :
    complete i commit s = { commit s with pending := none, done := true } := by
  simp [complete, h]

end Sys2Proof.Machine
end

