-- ==== Sys2Proof/Laws/Step.lean ====
section
/-! SUPPORT. What one step can do: the inversion lemma of `step`, from which every invariant is proved. -/

namespace Sys2Proof.Machine

/-- The block components of two states that agree on the block. -/
theorem State.SameBlock.refl (s : State) : s.SameBlock s := rfl

theorem State.SameBlock.exists_eq {s t : State} (h : s.SameBlock t) :
    ∃ r ho sc m d, t = { s with response := r, host := ho, schedule := sc, mover := m, draws := d } :=
  ⟨_, _, _, _, _, h.symm⟩

/-- The effects a step can have, by what the step does; s0 is s with the response port and the model's own fields
moved on. -/
inductive StepEffect (s : State) : State → Prop where
  | idle (s0 : State) (hm : s.nextMove = .idle) (hb : s.SameBlock s0) : StepEffect s s0
  | noStore (s0 : State) (op : HostOp) (hm : s.nextMove = .bus op) (hb : s.SameBlock s0)
      (hop : ∀ off v, op = .write off .four v → off.toNat % 4 ≠ 0) : StepEffect s s0
  | stored (s0 : State) (off : WindowOffset) (v : Word) (hm : s.nextMove = .bus (.write off .four v))
      (ha : off.toNat % 4 = 0) (hs : slotOf off ≠ .cmd) (hb : s.SameBlock s0) :
      StepEffect s (writeSlot (slotOf off) v s0)
  | submitted (s0 : State) (v : Word) (i : Instr) (hm : s.nextMove = .bus (.write 0x0C .four v))
      (hd : decodeWord v = .ok i) (hb : s.SameBlock s0) : StepEffect s (submit i s0)
  | illegal (s0 : State) (v : Word) (r : DecodeReject) (hm : s.nextMove = .bus (.write 0x0C .four v))
      (hd : decodeWord v = .error r) (hb : s.SameBlock s0) : StepEffect s (submitIllegal s0)
  | completed (s0 : State) (i : Instr) (hm : s.nextMove = .completion i) (hp : s0.pending = some i)
      (hb : s.SameBlock s0) : StepEffect s { commitOf i s0 with pending := none, done := true }
  | reset (t : State) (op : Option HostOp) (hm : s.nextMove = .reset op) (hb : State.reset.SameBlock t) :
      StepEffect s t

theorem useTurn_sameBlock (s : State) :
    useTurn s = { s with schedule := (useTurn s).schedule, draws := (useTurn s).draws } := by
  unfold useTurn; split <;> rfl

@[simp] theorem useTurn_host (s : State) : (useTurn s).host = s.host := by unfold useTurn; split <;> rfl
@[simp] theorem useTurn_pending (s : State) : (useTurn s).pending = s.pending := by unfold useTurn; split <;> rfl

/-- A completion is a move only of the pending command (30_encoding.md R85). -/
theorem pending_of_nextMove {s : State} {i : Instr} (h : s.nextMove = .completion i) : s.pending = some i := by
  unfold State.nextMove State.freeMove State.engineMove State.hostMove at h
  cases hp : s.pending <;> rw [hp] at h <;> (repeat' split at h) <;> simp_all

/-- Everything a step can do. -/
theorem step_effect {s t : State} (h : step s = .next t) : StepEffect s t := by
  unfold step takeTurn perform at h
  have hu := useTurn_sameBlock s
  split at h
  case h_1 hm =>
    cases h
    exact .idle _ hm (by rw [hu]; rfl)
  case h_2 op hm =>
    cases op with
    | read off size =>
      cases h
      exact .noStore _ _ hm (by rw [hu]; rfl) (by simp)
    | poll off mask value =>
      cases h
      exact .noStore _ _ hm (by rw [hu]; rfl) (by simp)
    | write off size v =>
      simp only [busOp, memWrite] at h
      split at h
      · rename_i hserved
        simp only [served, Bool.and_eq_true, beq_iff_eq] at hserved
        obtain ⟨rfl, ha⟩ := hserved
        split at h
        · rename_i hslot
          obtain rfl := slotOf_cmd.1 hslot
          unfold commandWrite at h
          split at h
          · rename_i i hd
            rw [exec_host i rfl] at h
            cases h
            exact .submitted _ v i hm hd (by rw [hu]; rfl)
          · rename_i r hd
            cases h
            exact .illegal _ v r hm hd (by rw [hu]; rfl)
        · rename_i hslot
          cases h
          exact .stored _ off v hm ha hslot (by rw [hu]; rfl)
      · rename_i hserved
        cases h
        refine .noStore _ _ hm (by rw [hu]; rfl) ?_
        rintro off' v' ⟨⟩ ha
        simp [served, ha] at hserved
  case h_3 i hm =>
    have hp := pending_of_nextMove hm
    rw [completion, exec_engine i rfl, complete_of_pending (by simpa using hp)] at h
    cases h
    exact .completed { useTurn s with mover := .engine, response := none } i hm (by simpa using hp) (by rw [hu]; rfl)
  case h_4 op hm =>
    cases h
    refine .reset _ op hm ?_
    cases op <;> rfl

end Sys2Proof.Machine
end

