-- ==== Sys2Proof/Laws/Events.lean ====
section
/-! SUPPORT. Which of the events of Safety a step is, for each effect it can have: the whole-machine rules about the
flags follow from these by case analysis on `step_effect`. -/

namespace Sys2Proof.Machine

theorem busy_iff (s : State) : s.busy = true ↔ s.pending ≠ none := by
  cases h : s.pending <;> simp [State.busy, h]

/-- The conditions of a command's acceptance in the words of 30_encoding.md R84. -/
theorem cfgLegalFor_iff (i : Instr) (s : State) :
    cfgLegalFor i s = true ↔
      ((i = .trunc ∨ i = .validate) → s.hashsel ≠ 3 ∧ 1 ≤ s.digits.toNat ∧ s.digits.toNat ≤ 10) := by
  cases i <;>
    simp [cfgLegalFor, checksCfg, hashLegal_iff, digitsLegal_iff]

/-- A step that is no aligned 32-bit write is none of the write events. -/
theorem no_write_events {s : State} (h : ∀ off v, off.toNat % 4 = 0 → ¬s.writes off v) :
    ¬s.submits ∧ ¬s.writesInput ∧ (∀ i, ¬s.accepts i) ∧ (∀ c, ¬s.rejects c) ∧ (∀ b, ¬s.acks b) ∧ ¬s.dropsWrite ∧
      (∀ v, ¬s.writes 4#8 v) := by
  have h4 := fun v => h 0x04 v (by decide)
  have hc := fun v => h 0x0C v (by decide)
  have h10 := fun v => h 0x10 v (by decide)
  refine ⟨?_, ?_, ?_, ?_, ?_, ?_, h4⟩
  · rintro ⟨_, v, hv⟩; exact hc v hv
  · rintro ⟨_, off, v, hv, hi⟩; exact h off v hi.1 hv
  · rintro i ⟨_, v, hv, _⟩; exact hc v hv
  · rintro c ⟨_, v, hv, _⟩; exact hc v hv
  · rintro b ⟨v, hv, _⟩; exact h10 v hv
  · rintro ⟨_, off, v, hv, hi | rfl⟩
    · exact h off v hi.1 hv
    · exact hc v hv

/-- A step is one write. -/
theorem writes_iff {s : State} {off off' : WindowOffset} {v v' : Word}
    (hm : s.nextMove = .bus (.write off .four v)) : s.writes off' v' ↔ off' = off ∧ v' = v := by
  simp only [State.writes, hm, Move.bus.injEq, HostOp.write.injEq, true_and]
  exact ⟨fun h => ⟨h.1.symm, h.2.symm⟩, fun h => ⟨h.1.symm, h.2.symm⟩⟩

/-- The events of a write to a slot other than CMD. -/
theorem store_events {s : State} {off : WindowOffset} {v : Word} (hm : s.nextMove = .bus (.write off .four v))
    (ha : off.toNat % 4 = 0) (hs : slotOf off ≠ .cmd) :
    ¬s.submits ∧ (s.writesInput ↔ s.busy = false ∧ (slotOf off).isInput = true) ∧ (∀ i, ¬s.accepts i) ∧
      (∀ c, ¬s.rejects c) ∧ (∀ b, s.acks b ↔ slotOf off = .status ∧ v.getLsbD b = true) ∧
      (s.dropsWrite ↔ s.busy = true ∧ (slotOf off).isInput = true) ∧
      (∀ v', s.writes 4#8 v' ↔ slotOf off = .ctrl ∧ v' = v) := by
  have hne : (0x0C : WindowOffset) ≠ off := fun h => hs (slotOf_cmd.2 h.symm)
  simp only [State.submits, State.writesInput, State.accepts, State.rejects, State.acks, State.dropsWrite,
    writes_iff hm, slotOf_isInput ha, slotOf_status, slotOf_ctrl]
  refine ⟨fun h => ?_, ⟨?_, ?_⟩, fun i h => ?_, fun c h => ?_, fun b => ⟨?_, ?_⟩, ⟨?_, ?_⟩, fun v' => ?_⟩
  · obtain ⟨_, _, h, _⟩ := h; exact hne h
  · rintro ⟨hb, _, _, ⟨rfl, rfl⟩, hi⟩; exact ⟨hb, hi⟩
  · rintro ⟨hb, hi⟩; exact ⟨hb, off, v, ⟨rfl, rfl⟩, hi⟩
  · obtain ⟨_, _, ⟨h, _⟩, _⟩ := h; exact hne h
  · obtain ⟨_, _, ⟨h, _⟩, _⟩ := h; exact hne h
  · rintro ⟨_, ⟨rfl, rfl⟩, h⟩; exact ⟨rfl, h⟩
  · rintro ⟨rfl, h⟩; exact ⟨v, ⟨rfl, rfl⟩, h⟩
  · rintro ⟨hb, _, _, ⟨rfl, rfl⟩, hi | hi⟩
    · exact ⟨hb, hi⟩
    · exact absurd hi.symm hne
  · rintro ⟨hb, hi⟩; exact ⟨hb, off, v, ⟨rfl, rfl⟩, .inl hi⟩
  · exact ⟨fun h => ⟨h.1.symm, h.2⟩, fun h => ⟨h.1.symm, h.2⟩⟩

/-- The events of a write to CMD. -/
theorem command_events {s : State} {v : Word} (hm : s.nextMove = .bus (.write 0x0C .four v)) :
    (s.submits ↔ s.busy = false) ∧ ¬s.writesInput ∧
      (∀ i, s.accepts i ↔ s.busy = false ∧ decodeWord v = .ok i ∧ cfgLegalFor i s = true) ∧
      (∀ b, ¬s.acks b) ∧ (s.dropsWrite ↔ s.busy = true) ∧ (∀ v', ¬s.writes 4#8 v') := by
  simp only [State.submits, State.writesInput, State.accepts, State.acks, State.dropsWrite, writes_iff hm]
  refine ⟨⟨fun h => h.1, fun h => ⟨h, v, trivial, rfl⟩⟩, ?_, fun i => ⟨?_, ?_⟩, ?_, ⟨fun h => h.1, fun h =>
    ⟨h, 0x0C, v, ⟨rfl, rfl⟩, .inr rfl⟩⟩, fun v' h => absurd h.1 (by decide)⟩
  · rintro ⟨_, _, _, ⟨rfl, rfl⟩, _, h⟩; revert h; decide
  · rintro ⟨hb, _, ⟨_, rfl⟩, h⟩; exact ⟨hb, h⟩
  · rintro ⟨hb, h⟩; exact ⟨hb, v, ⟨trivial, rfl⟩, h⟩
  · rintro b ⟨_, ⟨h, _⟩, _⟩; exact absurd h (by decide)

/-- The rejections of a CMD write. -/
theorem rejects_iff {s : State} {v : Word} (hm : s.nextMove = .bus (.write 0x0C .four v)) (code : BitVec 4) :
    s.rejects code ↔ s.busy = false ∧
      ((code = 1 ∧ ∃ r, decodeWord v = .error r) ∨
       (code = 2 ∧ s.hashsel = 3 ∧ (decodeWord v = .ok .trunc ∨ decodeWord v = .ok .validate)) ∨
       (code = 3 ∧ s.hashsel ≠ 3 ∧ ¬(1 ≤ s.digits.toNat ∧ s.digits.toNat ≤ 10) ∧
         (decodeWord v = .ok .trunc ∨ decodeWord v = .ok .validate))) := by
  simp only [State.rejects, writes_iff hm]
  constructor
  · rintro ⟨hb, _, ⟨_, rfl⟩, h⟩; exact ⟨hb, h⟩
  · rintro ⟨hb, h⟩; exact ⟨hb, v, ⟨trivial, rfl⟩, h⟩

end Sys2Proof.Machine
end

