-- ==== Sys2Proof/Laws/PerInstr.lean ====
section
/-! SUPPORT. Families of statements made once per instruction. -/

/-- A command word of format CMD32 (30_encoding.md R81, R82): RSVD is 0, OPCODE is the command's, the word decodes to
the command, and the term is well formed. -/
def Sys2Proof.Laws.Cmd32.Statement (i : Sys2Proof.Instr) : Prop :=
  Sys2Proof.rsvdField (Sys2Proof.encode i) = 0 ∧ Sys2Proof.opcodeField (Sys2Proof.encode i) = i.opcode ∧
    Sys2Proof.decodeWord (Sys2Proof.encode i) = .ok i ∧ i.wellFormed = true

theorem Sys2Proof.Laws.Cmd32.nop : Sys2Proof.Laws.Cmd32.Statement .nop := ⟨rfl, rfl, rfl, rfl⟩

theorem Sys2Proof.Laws.Cmd32.trunc : Sys2Proof.Laws.Cmd32.Statement .trunc := ⟨rfl, rfl, rfl, rfl⟩

theorem Sys2Proof.Laws.Cmd32.validate : Sys2Proof.Laws.Cmd32.Statement .validate := ⟨rfl, rfl, rfl, rfl⟩

theorem Sys2Proof.Laws.Cmd32.clear : Sys2Proof.Laws.Cmd32.Statement .clear := ⟨rfl, rfl, rfl, rfl⟩
end

