-- ==== Sys2Proof/Laws/Truncation.lean ====
section
/-! SUPPORT. The truncation and the comparison as numbers (40_truncation.md R102 to R105, 41_validate.md R121, R122). -/

namespace Sys2Proof.Machine

/-- The index of the last digest byte under each legal selector (40_truncation.md R101). -/
theorem lastIndex_of_len {h : BitVec 2} {len : Nat}
    (hl : (h = 0b00 ∧ len = 20) ∨ (h = 0b01 ∧ len = 32) ∨ (h = 0b10 ∧ len = 64)) : lastIndex h = len - 1 := by
  rcases hl with ⟨rfl, rfl⟩ | ⟨rfl, rfl⟩ | ⟨rfl, rfl⟩ <;> rfl

/-- The offset is the last digest byte modulo 16 (40_truncation.md R102). -/
theorem toNat_truncOffset (g : Vector Byte Config.digestMax) (h : BitVec 2) :
    (truncOffset g h).toNat = (byteAt g (lastIndex h)).toNat % 16 := by
  have key : ∀ b : Byte, ((b &&& 0x0F).setWidth 4).toNat = b.toNat % 16 := by decide
  exact key _

/-- The code is the remainder by 10^d (40_truncation.md R104). -/
theorem toNat_codeOf (b : BitVec 31) (d : Nat) : (codeOf b d).toNat = b.toNat % 10 ^ d := by
  simp only [codeOf, BitVec.toNat_ofNat]
  exact Nat.mod_eq_of_lt (lt_of_le_of_lt (Nat.mod_le _ _) b.isLt)

/-- A rendered character is its ASCII digit (40_truncation.md R105). -/
theorem toNat_renderDigit (c d i : Nat) : (renderDigit c d i).toNat = 0x30 + c / 10 ^ (d - 1 - i) % 10 := by
  simp only [renderDigit, BitVec.toNat_ofNat]
  omega

/-- The rendering has exactly d characters (40_truncation.md R105). -/
theorem length_render (c d : Nat) : (render c d).length = d := by simp [render]

theorem render_getD_of_lt {c d k : Nat} (h : k < d) : (render c d).getD k 0 = renderDigit c d k := by
  simp [render, h]

theorem render_getD_of_le {c d k : Nat} (h : d ≤ k) : (render c d).getD k 0 = 0 := by simp [render, h]

/-- The accumulated difference is 0 exactly when the bytes below d agree (41_validate.md R122). -/
theorem candDiff_eq_zero (cand : Vector Byte Config.candMax) (str : List Byte) {d : Nat} (hd : d ≤ 16) :
    candDiff cand str d = 0 ↔ ∀ k < d, byteAt cand k = str.getD k 0 := by
  have gen : ∀ (l : List Nat) (acc : Byte), l.foldl (fun acc i => acc ||| laneDiff cand str d i) acc = 0 ↔
      acc = 0 ∧ ∀ i ∈ l, laneDiff cand str d i = 0 := by
    intro l
    induction l with
    | nil => simp
    | cons a l ih =>
      intro acc
      have hor : acc ||| laneDiff cand str d a = 0 ↔ acc = 0 ∧ laneDiff cand str d a = 0 := by
        simp [← BitVec.toNat_inj]
      rw [List.foldl_cons, ih, hor]
      simp [and_assoc]
  unfold candDiff
  rw [gen]
  simp only [laneDiff, List.mem_range, true_and]
  constructor
  · intro h k hk
    have hl := h k (by simp [Config.candMax]; omega)
    rw [if_pos hk] at hl
    simpa [BitVec.xor_eq_zero_iff] using hl
  · intro h i _
    split
    · rename_i hi
      rw [h i hi]
      simp
    · rfl

/-- The verdict: the lengths agree and so do the bytes below d (41_validate.md R121, R122). -/
theorem verdict_iff (s : State) :
    s.verdict = true ↔ s.candlen.toNat = s.digits.toNat ∧
      ∀ k < s.digits.toNat, byteAt s.cand k = s.truncation.str.getD k 0 := by
  have hd : s.digits.toNat ≤ 16 := by
    have := s.digits.isLt
    omega
  unfold State.verdict State.lenOk State.candLength State.digitCount
  rw [Bool.and_eq_true, beq_iff_eq, beq_iff_eq, candDiff_eq_zero _ _ hd]

/-- Equal inputs give equal verdicts (41_validate.md R128). -/
theorem verdict_congr {s t : State} (h : s.SameInputs t) : s.verdict = t.verdict := by
  obtain ⟨h1, h2, h3, h4, h5⟩ := h
  simp [State.verdict, State.lenOk, State.truncation, State.candLength, State.digitCount, h1, h2, h3, h4, h5]

end Sys2Proof.Machine
end

