-- ==== Sys2Proof/Laws/Turns.lean ====
section
/-! SUPPORT. What a step is when it is known who moves: the host's turn, the engine's turn, and one step of a run. -/

namespace Sys2Proof.Machine

theorem step_of_bus {s : State} {op : HostOp} (h : s.nextMove = .bus op) : step s = busOp op (useTurn s) := by
  rw [step, takeTurn, h, perform]

theorem step_of_host {s : State} {rest : List Turn} {op : HostOp} {ops : List HostOp}
    (hs : s.schedule = .host :: rest) (hh : s.host = op :: ops) :
    step s = busOp op { s with schedule := rest } := by
  simp [step, takeTurn, State.nextMove, State.hostMove, hs, hh, perform, useTurn]

/-! The operations the host has left after one of each kind (30_encoding.md R88). -/

@[simp] theorem hostAfter_read (off : WindowOffset) (size : Size) (r : Response) (ops : List HostOp) :
    hostAfter (.read off size) r ops = ops.tail := rfl
@[simp] theorem hostAfter_write (off : WindowOffset) (size : Size) (v : Word) (r : Response) (ops : List HostOp) :
    hostAfter (.write off size v) r ops = ops.tail := rfl

theorem hostAfter_poll_of_met (off : WindowOffset) {mask value w : Word} (r : Resp) (ops : List HostOp)
    (h : w &&& mask = value) : hostAfter (.poll off mask value) (.read w r) ops = ops.tail := by
  simp [hostAfter, pollMet, h]

theorem hostAfter_poll_of_unmet (off : WindowOffset) {mask value w : Word} (r : Resp) (ops : List HostOp)
    (h : w &&& mask ≠ value) : hostAfter (.poll off mask value) (.read w r) ops = ops := by
  simp [hostAfter, pollMet, h]

/-- Every read answers a read (20_memory.md R63). -/
theorem memRead_eq_read (off : WindowOffset) (size : Size) (s : State) : ∃ w r, memRead off size s = .read w r := by
  unfold memRead
  split <;> exact ⟨_, _, rfl⟩

/-- A read sees the block and nothing else of the state (20_memory.md R63). -/
theorem memRead_sameBlock {s t : State} (h : s.SameBlock t) (off : WindowOffset) (size : Size) :
    memRead off size t = memRead off size s := by
  obtain ⟨_, _, _, _, _, rfl⟩ := h.exists_eq
  rfl

/-- A host read, be it a `POLL`'s: everything the step does, and whose operation it was (20_memory.md R63). -/
theorem step_of_reads {s : State} {off : WindowOffset} {size : Size} (h : s.reads off size) :
    ∃ t, step s = .next t ∧ s.SameBlock t ∧ t.response = some (memRead off size s) := by
  have hr := fun size => memRead_sameBlock (s := s) (t := useTurn s) (by rw [useTurn_sameBlock s]; rfl) off size
  rcases h with h | ⟨rfl, mask, value, h⟩
  all_goals
    refine ⟨_, step_of_bus h, ?_, congrArg some (hr _)⟩
    rw [useTurn_sameBlock s]
    rfl

/-- The engine's turn with a command pending (30_encoding.md R85). -/
theorem step_of_engine {s : State} {i : Instr} {rest : List Turn} (hp : s.pending = some i)
    (hs : s.schedule = .engine :: rest) :
    step s = .next { commitOf i { s with schedule := rest, mover := .engine, response := none } with
      pending := none, done := true } := by
  simp [step, takeTurn, State.nextMove, State.engineMove, hs, hp, perform, useTurn, completion]
  rw [exec_engine _ rfl, complete_of_pending rfl]

/-- An aligned 32-bit write to anything but CMD (20_memory.md R64). -/
theorem step_of_store {s : State} {off : WindowOffset} {v : Word} (h : s.writes off v) (ha : off.toNat % 4 = 0)
    (hc : off ≠ 0x0C) :
    ∃ s0, s.SameBlock s0 ∧ s0.response = some (.write .okay) ∧ step s = .next (writeSlot (slotOf off) v s0) := by
  have hslot : slotOf off ≠ .cmd := fun he => hc (slotOf_cmd.1 he)
  have hserved : served off .four = true := by simp [served, ha]
  rw [step_of_bus h]
  simp only [busOp, memWrite, hserved, if_true, hslot, if_false, writeResp]
  refine ⟨_, ?_, ?_, rfl⟩
  · rw [useTurn_sameBlock s]
    rfl
  · rfl

/-- A write to CMD (30_encoding.md R84). -/
theorem step_of_command {s : State} {v : Word} (h : s.writes 0x0C v) :
    ∃ s0, s.SameBlock s0 ∧ s0.response = some (.write .okay) ∧ s0.mover = .host ∧ step s = commandWrite v s0 := by
  rw [step_of_bus h]
  refine ⟨{ useTurn s with
    mover := .host, response := some (.write (writeResp 0x0C .four)),
    host := hostAfter (.write 0x0C .four v) (.write (writeResp 0x0C .four)) (useTurn s).host }, ?_, rfl, rfl, rfl⟩
  rw [useTurn_sameBlock s]
  rfl

theorem run_zero (s : State) : Sys2Proof.core.run 0 s = .next s := rfl

theorem run_succ_of_next {s t : State} {n : Nat} (h : step s = .next t) :
    Sys2Proof.core.run (n + 1) s = Sys2Proof.core.run n t := by
  simp only [Host.Core.run]
  rw [show Sys2Proof.core.step s = .next t from h]

/-- Where the CAND and DIGEST words stand in the window (10_state.md R22). -/
theorem slotOf_cand {off : WindowOffset} {k : Nat} (h : slotOf off = .cand k) : off.toNat = 0x40 + k ∧ k < 16 := by
  have key : ∀ off : WindowOffset, (match slotOf off with
      | .cand k => off.toNat == 0x40 + k && decide (k < 16)
      | _ => true) = true := by decide
  have := key off
  rw [h] at this
  simpa using this

theorem slotOf_digest {off : WindowOffset} {k : Nat} (h : slotOf off = .digest k) :
    off.toNat = 0x80 + k ∧ k < 64 := by
  have key : ∀ off : WindowOffset, (match slotOf off with
      | .digest k => off.toNat == 0x80 + k && decide (k < 64)
      | _ => true) = true := by decide
  have := key off
  rw [h] at this
  simpa using this

end Sys2Proof.Machine
end

