-- ==== Sys2Proof/Machine/HostDuty.lean ====
section
/-! DEFINITION. What the host owes the block (00_scope.md R9 to R13, 70_reset_and_hazards.md R200 to R204). These definitions
bind the host: no step of the machine uses them. -/

namespace Sys2Proof.Machine

/-- The Counter Codec: 8 bytes, big-endian, byte 0 is bits 63:56 (00_scope.md R9). -/
def counterBytes (c : BitVec 64) : List Byte := (List.range 8).map fun i => c.extractLsb' (56 - 8 * i) 8

/-- The source's TOTP defaults (00_scope.md R10). -/
def totpPeriodDefault : Nat := 30
def totpStartDefault : Int := 0

/-- The TOTP counter floor((time - timeStart) / period); a time before timeStart is rejected by the host
(00_scope.md R10, R11). A period of 0 and a counter past 64 bits give no counter (assumption 9). -/
def totpCounter (time timeStart : Int) (period : Nat) : Option (BitVec 64) :=
  if time < timeStart ∨ period = 0 ∨ 2 ^ 64 ≤ (time - timeStart) / period then none
  else some (BitVec.ofInt 64 ((time - timeStart) / period))

/-- The first L bytes of DIGEST are the given digest, and it has exactly L bytes (00_scope.md R9, R13). -/
def State.digestIs (s : State) (bytes : List Byte) : Prop :=
  bytes.length = lastIndex s.hashsel + 1 ∧ ∀ i < bytes.length, byteAt s.digest i = bytes.getD i 0

/-- The host's HOTP duty: DIGEST holds the HMAC of the counter under the secret, keyed with the hash CFG.HASHSEL names
(00_scope.md R9, R13). -/
def State.holdsHotpDigest (s : State) (secret : List Byte) (counter : BitVec 64) : Prop :=
  s.digestIs (Config.hmac s.hashsel secret (counterBytes counter))

/-! ### Reading the answer -/

/-- A read of STATUS that shows the host that its command has completed or was rejected: BUSY = 0, or DONE = 1
(70_reset_and_hazards.md R200). -/
def waitOver (status : Word) : Bool := !status.getLsbD 0 || status.getLsbD 1

/-- A read of STATUS that tells the host that some write was lost (70_reset_and_hazards.md R201). -/
def writesLost (status : Word) : Bool := status.getLsbD 3

/-- What a read of STATUS after a VALIDATE tells the host (70_reset_and_hazards.md R204, 60_exceptions.md R165). -/
inductive Verdict where
  /-- MATCH = 1: the current inputs match. -/
  | success
  /-- The VALIDATE completed with MATCH = 0 and ERR = NONE. -/
  | invalidCode
  /-- A configuration fault: MATCH = 0 and ERR is the code. -/
  | rejected (code : BitVec 4)
  /-- The command is still in progress. -/
  | running
  deriving DecidableEq, Repr

/-- The host's reading of STATUS after its VALIDATE (70_reset_and_hazards.md R204). -/
def readVerdict (status : Word) : Verdict :=
  if !waitOver status then .running
  else if status.getLsbD 2 then .success
  else if status.extractLsb' 4 4 = 0 then .invalidCode
  else .rejected (status.extractLsb' 4 4)

/-- The latency of an accepted command in clock cycles (70_reset_and_hazards.md R205, R208): a constant of the
implementation. A rejected command takes none beyond its CMD write. No step of the machine depends on it. -/
def latency : Instr → Nat
  | .nop => Config.tNop
  | .trunc => Config.tTrunc
  | .validate => Config.tValidate
  | .clear => Config.tClear

end Sys2Proof.Machine
end

