-- ==== Sys2Proof/Tests/Slice0.lean ====
section
/-! SUPPORT. Tests: ill-formed terms refused, command words written out from the spec's encoding, one-step tests whose
expected values are the spec's vectors (95_test_vectors.md), and a witness for every statement with hypotheses. -/

namespace Sys2Proof.Tests

open Sys2Proof.Machine

/-! ### Helpers -/

/-- A buffer holding the given bytes, 0x00 above them. -/
def buf (n : Nat) (bytes : List Byte) : Vector Byte n := Vector.ofFn fun i => bytes.getD i.val 0

/-- s with one bus operation as the next step. -/
def hostDoes (op : HostOp) (s : State) : State := { s with host := [op], schedule := [.host] }

/-- s with the engine as the next to move. -/
def engineDoes (s : State) : State := { s with schedule := [.engine] }

/-- The state after a step. -/
def after (s : State) : State :=
  match step s with
  | .next t => t
  | .fault _ => State.reset
  | .refused _ => State.reset

/-- E2 counter 0 and counter 1: the HMAC-SHA1 digests (95_test_vectors.md E2). -/
def digest0 : List Byte :=
  [0xcc, 0x93, 0xcf, 0x18, 0x50, 0x8d, 0x94, 0x93, 0x4c, 0x64, 0xb6, 0x5d, 0x8b, 0xa7, 0x66, 0x7f, 0xb7, 0xcd, 0xe4,
    0xb0]
def digest1 : List Byte :=
  [0x75, 0xa4, 0x8a, 0x19, 0xd4, 0xcb, 0xe1, 0x00, 0x64, 0x4e, 0x8a, 0xc1, 0x39, 0x7e, 0xea, 0x74, 0x7a, 0x2d, 0x33,
    0xab]

/-- The candidate "287082" (95_test_vectors.md V-V1). -/
def cand1 : List Byte := [0x32, 0x38, 0x37, 0x30, 0x38, 0x32]

/-- A TRUNC pending on counter 0's digest, and a VALIDATE pending on counter 1's with a candidate. -/
def truncPending : State := { State.reset with digest := buf 64 digest0, pending := some .trunc }
def validatePending (cand : List Byte) (len : BitVec 8) : State :=
  { State.reset with digest := buf 64 digest1, cand := buf 16 cand, candlen := len, pending := some .validate }

/-! ### Ill-formed terms are refused (30_encoding.md R88, R89) -/

theorem test_wf_instr : [Instr.nop, .trunc, .validate, .clear].all Instr.wellFormed = true := by decide
theorem test_wf_place_unaligned_k : (Place.name .cand 2).wellFormed = false := by decide
theorem test_wf_place_past_window : (Place.name .digest 128).wellFormed = false := by decide
theorem test_wf_place_ok : (Place.name .digest 60).wellFormed = true := by decide
theorem test_wf_wr_bad_place : (HostLine.wr (.name .out 1) 0).wellFormed = false := by decide
theorem test_wf_rd_bad_place : (HostLine.rd (.name .out 6) none).wellFormed = false := by decide
theorem test_wf_poll_bad_place : (HostLine.poll (.name .status 3) 1 0).wellFormed = false := by decide
theorem test_wf_setcfg_too_wide : (HostLine.setcfg 0 0x10000000).wellFormed = false := by decide
theorem test_wf_lddig_not_words : (HostLine.lddig [1, 2, 3]).wellFormed = false := by decide
theorem test_wf_lddig_too_long : (HostLine.lddig (List.replicate 68 0)).wellFormed = false := by decide
theorem test_wf_ldcand_too_long (bytes : List Byte) (h : bytes.length = 256) :
    (HostLine.ldcand bytes).wellFormed = false := by simp [HostLine.wellFormed, h]

/-! ### Words written out from the spec's encoding (30_encoding.md R81: 28 zeros, then the four OPCODE bits of R82) -/

theorem test_decode_nop : decodeWord 0b0000000000000000000000000000_0000 = .ok .nop := by decide
theorem test_decode_trunc : decodeWord 0b0000000000000000000000000000_0001 = .ok .trunc := by decide
theorem test_decode_validate : decodeWord 0b0000000000000000000000000000_0010 = .ok .validate := by decide
theorem test_decode_clear : decodeWord 0b0000000000000000000000000000_1111 = .ok .clear := by decide
/-- The reserved opcodes at both ends of their range (30_encoding.md R83). -/
theorem test_decode_reserved_opcode :
    decodeWord 0b0000000000000000000000000000_0011 = .error .reservedOpcode ∧
    decodeWord 0b0000000000000000000000000000_1110 = .error .reservedOpcode := by decide
/-- RSVD bit 4 and RSVD bit 31 (95_test_vectors.md V-T18). -/
theorem test_decode_reserved_bits :
    decodeWord 0x00000011 = .error .reservedBits ∧ decodeWord 0x80000001 = .error .reservedBits := by decide
theorem test_encode_words :
    encode .nop = 0x00000000 ∧ encode .trunc = 0x00000001 ∧ encode .validate = 0x00000002 ∧
    encode .clear = 0x0000000F := by decide
/-- The first byte is bits 7:0 (20_memory.md R65). -/
theorem test_decode_bytes : decode [0x0F, 0x00, 0x00, 0x00, 0xAA] = .ok (.clear, [0xAA]) := by decide
theorem test_decode_bytes_order : decode [0x00, 0x00, 0x00, 0x0F] = .error .reservedBits := by decide
theorem test_decode_short : decode [0x01, 0x00, 0x00] = .error .truncated := by decide
theorem test_decode_table :
    decodeTableWord 32 0 = some .nop ∧ decodeTableWord 32 1 = some .trunc ∧ decodeTableWord 32 2 = some .validate ∧
    decodeTableWord 32 15 = some .clear ∧ decodeTableWord 32 5 = none := by decide

/-! ### The commands, one step each (95_test_vectors.md sections 1 and 2) -/

/-- E2 row 0, V-T14. -/
theorem test_trunc_counter0 :
    let t := after (engineDoes truncPending)
    t.offset = 0 ∧ t.bincode = 0x4C93CF18 ∧ t.code = 755224 ∧ lanes t.out 0 = 0x32353537 ∧ lanes t.out 4 = 0x3432 ∧
      lanes t.out 8 = 0 ∧ t.statusWord = 0x02 := by decide
/-- V-T3: offset 15, the top bit masked, ten digits. -/
theorem test_trunc_all_ones :
    let t := after (engineDoes
      { State.reset with digest := Vector.replicate 64 0xFF, digits := 10, pending := some .trunc })
    t.offset = 15 ∧ t.bincode = 0x7FFFFFFF ∧ t.code = 2147483647 ∧ lanes t.out 0 = 0x37343132 ∧
      lanes t.out 4 = 0x36333834 ∧ lanes t.out 8 = 0x3734 := by decide
/-- V-V1: success. -/
theorem test_validate_match :
    let t := after (engineDoes (validatePending cand1 6))
    t.statusWord = 0x06 ∧ t.code = 0 := by decide
/-- V-V9: the bytes agree but LEN is 7. -/
theorem test_validate_length : (after (engineDoes (validatePending (cand1 ++ [0x30]) 7))).statusWord = 0x02 := by decide
/-- V-C1: NOP accepted, then completed. -/
theorem test_nop_accepted : (after (hostDoes (.write 0x0C .four 0) State.reset)).statusWord = 0x01 := by decide
theorem test_nop_completed :
    (after (engineDoes { State.reset with pending := some .nop })).statusWord = 0x02 := by decide
/-- V-C5: CLEAR does not check CFG. V-C4: it erases the buffers and keeps CFG. -/
theorem test_clear_accepted :
    (after (hostDoes (.write 0x0C .four 15) { State.reset with hashsel := 3, digits := 15 })).statusWord = 0x01 := by
  decide
theorem test_clear_completed :
    let t := after (engineDoes { truncPending with pending := some .clear, candlen := 6, code := 755224 })
    lanes t.digest 0 = 0 ∧ t.candlen = 0 ∧ t.code = 0 ∧ t.cfgWord = 0x60 ∧ t.statusWord = 0x02 := by decide

/-! ### Rejections, the busy window, the bus, irq and reset (95_test_vectors.md V-T18 and sections 2.4 to 2.7) -/

theorem test_badhash_first :
    (after (hostDoes (.write 0x0C .four 1) { State.reset with hashsel := 3, digits := 0 })).statusWord = 0x22 := by decide
theorem test_baddigits :
    (after (hostDoes (.write 0x0C .four 1) { State.reset with digits := 11 })).statusWord = 0x32 := by decide
theorem test_badcmd_first :
    (after (hostDoes (.write 0x0C .four 0x11) { State.reset with hashsel := 3 })).statusWord = 0x12 := by decide
theorem test_busy_drops_digest :
    let t := after (hostDoes (.write 0x80 .four 0xFFFFFFFF) truncPending)
    t.statusWord = 0x09 ∧ lanes t.digest 0 = 0x18CF93CC := by decide
theorem test_busy_drops_reserved_command :
    (after (hostDoes (.write 0x0C .four 7) truncPending)).statusWord = 0x09 := by decide
theorem test_digest_word :
    let t := after (hostDoes (.write 0x80 .four 0x18CF93CC) State.reset)
    byteAt t.digest 0 = 0xCC ∧ byteAt t.digest 1 = 0x93 ∧ byteAt t.digest 2 = 0xCF ∧ byteAt t.digest 3 = 0x18 := by
  decide
theorem test_status_w1c :
    (after (hostDoes (.write 0x10 .four 0xFFFFFFFF)
      { State.reset with done := true, matched := true, wbusy := true })).statusWord = 0x04 := by decide
theorem test_read_id : memRead 0x00 .four State.reset = .read 0x4F545031 .okay := by decide
theorem test_read_reserved :
    memRead 0x24 .four State.reset = .read 0 .okay ∧ memRead 0xFC .four State.reset = .read 0 .okay := by decide
theorem test_read_refused :
    memRead 0x02 .four State.reset = .read 0 .error ∧ memRead 0x10 .one State.reset = .read 0 .error := by decide
theorem test_write_refused :
    let t := after (hostDoes (.write 0x81 .four 1) { State.reset with matched := true })
    t.response = some (.write .error) ∧ lanes t.digest 0 = 0 ∧ t.matched = true := by decide
theorem test_cfg_stored :
    (after (hostDoes (.write 0x08 .four 0xFFFFFFFF) State.reset)).cfgWord = 0x000000F3 := by decide
theorem test_irq_on_rejection :
    (after (hostDoes (.write 0x0C .four 3) { State.reset with ie := true })).irq = true := by decide
theorem test_reset_while_busy :
    let t := after { truncPending with schedule := [.reset] }
    t.statusWord = 0 ∧ lanes t.digest 0 = 0 ∧ t.code = 0 := by decide

/-! ### The host notation and the host's duties (95_test_vectors.md P1, P2, P3, E3) -/

theorem test_lddig_first_word :
    (HostLine.lddig digest0).expand.head? = some (.write 0x80 .four 0x18CF93CC) := by decide
theorem test_ldcand_words :
    (HostLine.ldcand cand1).expand =
      [.write 0x40 .four 0x30373832, .write 0x44 .four 0x00003238, .write 0x14 .four 6] := by decide
theorem test_setcfg_word : (HostLine.setcfg 2 8).expand = [.write 0x08 .four 0x82] := by decide
theorem test_wait_word : HostLine.wait.expand = [.poll 0x10 1 0] := by decide
theorem test_command_word : (HostLine.command .clear).expand = [.write 0x0C .four 0x0F] := by decide
/-- P3's poll stays the next operation while DONE is 0, and is used up once DONE is 1. -/
theorem test_poll_done :
    (after (hostDoes (.poll 0x10 2 2) truncPending)).host = [.poll 0x10 2 2] ∧
    (after (hostDoes (.poll 0x10 2 2) { State.reset with done := true })).host = [] := by decide
theorem test_counter_bytes : counterBytes 0x23523EC = [0, 0, 0, 0, 0x02, 0x35, 0x23, 0xEC] := by decide
theorem test_totp_counter : totpCounter 1111111109 0 30 = some 0x23523EC := by decide
theorem test_totp_before_start : totpCounter 29 30 30 = none := by decide
theorem test_read_verdict :
    readVerdict 0x06 = .success ∧ readVerdict 0x02 = .invalidCode ∧ readVerdict 0x22 = .rejected 2 ∧
    readVerdict 0x01 = .running := by decide

/-! ### A host's first command runs at the first step after reset -/

theorem test_fetch_word : (after (State.reset.withFetchWord 32 1)).pending = some .trunc := by decide

/-! ### A witness for every statement with hypotheses: its name says which; one conjunct or one theorem for each clause -/

/-- A host write of v at an offset, from s, is a write event. -/
theorem writes_hostDoes (off : WindowOffset) (v : Word) (s : State) :
    (hostDoes (.write off .four v) s).writes off v := rfl

theorem witness_ResetStateValues :
    ∀ off ∈ [(0x04 : WindowOffset), 0x0C, 0x30, 0x38, 0x3C, 0x40, 0x4C, 0x80, 0xBC, 0xFC],
      off.toNat % 4 = 0 ∧ off ≠ 0x00 ∧ off ≠ 0x08 := by decide

theorem witness_ResetTakesPrecedence :
    (∃ s : State, s.schedule = .reset :: [.host] ∧ s.pending = some .trunc ∧ s.host = [.read 0 .four]) ∧
    (∃ s : State, s.schedule = .resetBus :: [.host] ∧ s.host = [.read 0x02 .one, .read 0 .four]) ∧
    (∃ s : State, s.schedule = .resetBus :: [.host] ∧ s.host = [.write 0x0C .four 1, .read 0 .four]) ∧
    (∃ s : State, s.schedule = .resetBus :: [.host] ∧ s.host = [.poll 0x10 1 0]) :=
  ⟨⟨{ truncPending with schedule := [.reset, .host], host := [.read 0 .four] }, rfl, rfl, rfl⟩,
   ⟨{ truncPending with schedule := [.resetBus, .host], host := [.read 0x02 .one, .read 0 .four] }, rfl, rfl⟩,
   ⟨{ truncPending with schedule := [.resetBus, .host], host := [.write 0x0C .four 1, .read 0 .four] }, rfl, rfl⟩,
   ⟨{ truncPending with schedule := [.resetBus, .host], host := [.poll 0x10 1 0] }, rfl, rfl⟩⟩

theorem witness_ResetAbandonsCommand :
    ∃ s : State, s.pending = some .trunc ∧ s.schedule = .reset :: (List.replicate 2 .engine ++ [.host]) :=
  ⟨{ truncPending with schedule := [.reset, .engine, .engine, .host] }, rfl, rfl⟩

theorem witness_FirstTruncAfterReset :
    ∃ s : State, s.AtReset ∧ s.host = .write 0x0C .four 0x00000001 :: [] ∧ s.schedule = .host :: .engine :: [] := by
  refine ⟨{ State.reset with host := [.write 0x0C .four 1], schedule := [.host, .engine] }, ?_, rfl, rfl⟩
  constructor <;> decide

theorem witness_CommandWordsDecodeAsTabled :
    decodeWord (BitVec.ofNat 32 3) = .error .reservedOpcode ∧
    decodeWord (BitVec.ofNat 32 14) = .error .reservedOpcode := by decide

theorem witness_DecodeInvertsEncode : Instr.clear.wellFormed = true ∧ decode (encodeBytes .clear ++ []) = .ok (.clear, []) :=
  ⟨rfl, rfl⟩

theorem witness_StepRunsDecodedCommand :
    ∃ s : State, s.schedule = .host :: [] ∧ s.host = .write 0x0C .four 2 :: [] ∧
      decode (bytesOfWord 2) = .ok (.validate, []) ∧ Instr.validate.wellFormed = true :=
  ⟨hostDoes (.write 0x0C .four 2) State.reset, rfl, rfl, by decide, rfl⟩

theorem witness_EngineTurnCompletesPending :
    (∃ s : State, s.schedule = .engine :: [] ∧ s.pending = none) ∧
    ∃ s : State, s.schedule = .engine :: [] ∧ s.pending = some .trunc :=
  ⟨⟨engineDoes State.reset, rfl, rfl⟩, ⟨engineDoes truncPending, rfl, rfl⟩⟩

theorem witness_UnscheduledStepIsHostsOrEngines :
    (∃ s : State, s.schedule = [] ∧ s.pending = none ∧ s.host ≠ []) ∧
    (∃ s : State, s.schedule = [] ∧ s.host = [] ∧ s.pending ≠ none) ∧
    ∃ s : State, s.schedule = [] ∧ s.host ≠ [] ∧ s.pending ≠ none :=
  ⟨⟨{ State.reset with host := [.read 0 .four] }, rfl, rfl, by decide⟩, ⟨truncPending, rfl, rfl, by decide⟩,
   ⟨{ truncPending with host := [.read 0 .four] }, rfl, by decide, by decide⟩⟩

theorem witness_CommandWriteRunsChecksInOrder :
    ∃ s : State, s.schedule = .host :: [] ∧ s.host = .write 0x0C .four 0x12 :: [] ∧ s.hashsel = 3 :=
  ⟨hostDoes (.write 0x0C .four 0x12) { State.reset with hashsel := 3 }, rfl, rfl, rfl⟩

theorem witness_AcceptedCommandBecomesPending :
    (∃ s : State, s.mover = .host ∧ s.pending = none ∧ s.hashsel ≠ 0b11 ∧ s.digits = 1) ∧
    (∃ s : State, s.mover = .host ∧ s.pending = none ∧ s.hashsel ≠ 0b11 ∧ s.digits = 10) ∧
    ∃ s : State, s.mover = .host ∧ s.pending = none ∧ s.hashsel = 0b11 :=
  ⟨⟨{ State.reset with digits := 1 }, rfl, rfl, by decide, rfl⟩,
   ⟨{ State.reset with digits := 10 }, rfl, rfl, by decide, rfl⟩, ⟨{ State.reset with hashsel := 3 }, rfl, rfl, rfl⟩⟩

theorem witness_RejectionChangesOnlyStatus :
    (∃ s : State, s.rejects 1) ∧ (∃ s : State, s.rejects 2) ∧ ∃ s : State, s.rejects 3 :=
  ⟨⟨hostDoes (.write 0x0C .four 3) State.reset, rfl, 3, rfl, .inl ⟨rfl, _, rfl⟩⟩,
   ⟨hostDoes (.write 0x0C .four 1) { State.reset with hashsel := 3 }, rfl, 1, rfl, .inr (.inl ⟨rfl, rfl, .inl rfl⟩)⟩,
   ⟨hostDoes (.write 0x0C .four 2) { State.reset with digits := 11 }, rfl, 2, rfl,
     .inr (.inr ⟨rfl, by decide, by decide, .inr rfl⟩)⟩⟩

theorem witness_NopAcceptsAndCompletes :
    ((0x10 : Word).toNat % 16 = 0 ∧ (0x10 : Word).toNat / 16 ≠ 0) ∧
    (∃ s : State, s.mover = .host ∧ s.pending = none) ∧ ∃ s : State, s.mover = .engine ∧ s.pending = some .nop :=
  ⟨by decide, ⟨State.reset, rfl, rfl⟩, ⟨{ State.reset with mover := .engine, pending := some .nop }, rfl, rfl⟩⟩

theorem witness_TruncCommitsTruncation :
    (∃ s : State, s.mover = .engine ∧ s.pending = some .trunc ∧ s.hashsel = 0b00 ∧ s.digits = 1) ∧
    (∃ s : State, s.mover = .engine ∧ s.pending = some .trunc ∧ s.hashsel = 0b01 ∧ s.digits = 6) ∧
    ∃ s : State, s.mover = .engine ∧ s.pending = some .trunc ∧ s.hashsel = 0b10 ∧ s.digits = 10 :=
  ⟨⟨{ truncPending with mover := .engine, digits := 1 }, rfl, rfl, rfl, rfl⟩,
   ⟨{ truncPending with mover := .engine, hashsel := 1 }, rfl, rfl, rfl, rfl⟩,
   ⟨{ truncPending with mover := .engine, hashsel := 2, digits := 10 }, rfl, rfl, rfl, rfl⟩⟩

theorem witness_ValidateCommitsVerdict :
    ∃ s : State, s.mover = .engine ∧ s.pending = some .validate ∧ s.hashsel ≠ 0b11 ∧ 1 ≤ s.digits.toNat ∧
      s.digits.toNat ≤ 10 ∧ s.verdict = true :=
  ⟨{ validatePending cand1 6 with mover := .engine }, rfl, rfl, by decide, by decide, by decide, by decide⟩

theorem witness_ClearErasesInputsAndResults :
    (∃ s : State, s.mover = .host ∧ s.pending = none) ∧ ∃ s : State, s.mover = .engine ∧ s.pending = some .clear :=
  ⟨⟨State.reset, rfl, rfl⟩, ⟨{ truncPending with mover := .engine, pending := some .clear }, rfl, rfl⟩⟩

theorem witness_TruncationArithmeticLaws :
    (truncate (buf 64 digest0) 0 1).str = [0x34] ∧
    (truncate (buf 64 digest0) 0 10).code = (truncate (buf 64 digest0) 0 10).binCode := by decide

/-- V-T16: the same digest with 0xEE above its 20 bytes. -/
theorem witness_TruncationReadsOnlyFiveBytes :
    ∃ g g' : Vector Byte 64, g ≠ g' ∧ byteAt g (20 - 1) = byteAt g' (20 - 1) ∧
      ∀ j < 4, byteAt g ((byteAt g (20 - 1)).toNat % 16 + j) = byteAt g' ((byteAt g (20 - 1)).toNat % 16 + j) :=
  ⟨buf 64 digest0, buf 64 (digest0 ++ List.replicate 44 0xEE), by decide, by decide, by decide⟩

/-- V-V1 and V-V7 after a TRUNC of counter 1. -/
theorem witness_ValidateAcceptsExactlyTheTruncatedCode :
    ∃ s t v v' : State, s.mover = .engine ∧ s.pending = some .trunc ∧ s.hashsel ≠ 0b11 ∧ 1 ≤ s.digits.toNat ∧
      s.digits.toNat ≤ 10 ∧ exec .trunc s = .next t ∧
      (v.mover = .engine ∧ v.pending = some .validate ∧ v.digest = t.digest ∧ v.hashsel = t.hashsel ∧
        v.digits = t.digits ∧ v.candlen.toNat = t.digits.toNat ∧
        ∀ k < t.digits.toNat, byteAt v.cand k = byteAt t.out k) ∧
      (v'.mover = .engine ∧ v'.pending = some .validate ∧ v'.digest = t.digest ∧ v'.hashsel = t.hashsel ∧
        v'.digits = t.digits ∧ v'.candlen.toNat = t.digits.toNat ∧
        ∃ k < t.digits.toNat, byteAt v'.cand k ≠ byteAt t.out k) :=
  ⟨{ validatePending [] 0 with mover := .engine, pending := some .trunc }, _,
   { validatePending cand1 6 with mover := .engine },
   { validatePending [0x32, 0x38, 0x37, 0x30, 0x38, 0x33] 6 with mover := .engine },
   rfl, rfl, by decide, by decide, by decide, rfl,
   ⟨rfl, rfl, rfl, rfl, rfl, rfl, by decide⟩, ⟨rfl, rfl, rfl, rfl, rfl, rfl, 5, by decide, by decide⟩⟩

/-- V-V7 and V-V8: a wrong byte and a wrong length give the same verdict. -/
theorem witness_ValidateRevealsOnlyTheVerdict :
    ∃ s s' : State, s ≠ s' ∧ s.EqButInputs s' ∧ s.mover = .engine ∧ s.pending = some .validate ∧
      s.verdict = s'.verdict :=
  ⟨{ validatePending [0x32, 0x38, 0x37, 0x30, 0x38, 0x33] 6 with mover := .engine },
   { validatePending [0x32, 0x38, 0x37, 0x30, 0x38] 5 with mover := .engine },
   fun h => absurd (congrArg State.candlen h) (by decide), rfl, rfl, rfl, by decide⟩

theorem witness_ReadAnswersTheRegister :
    (∀ off : WindowOffset, ∀ size : Size, (hostDoes (.read off size) truncPending).reads off size) ∧
    ∀ (off : WindowOffset) (mask value : Word), (hostDoes (.poll off mask value) truncPending).reads off .four :=
  ⟨fun _ _ => .inl rfl, fun _ mask value => .inr ⟨rfl, mask, value, rfl⟩⟩

theorem witness_UnservedAccessAnswersError :
    (∃ s : State, s.reads 0x10 .one) ∧ (∃ s : State, s.reads 0x02 .four) ∧
    (∃ s : State, s.nextMove = .bus (.poll 0x02 1 0) ∧ s.reads 0x02 .four) ∧
    (∃ s : State, s.nextMove = .bus (.write 0x80 .two 1)) ∧ ∃ s : State, s.nextMove = .bus (.write 0x81 .four 1) :=
  ⟨⟨hostDoes (.read 0x10 .one) State.reset, .inl rfl⟩, ⟨hostDoes (.read 0x02 .four) State.reset, .inl rfl⟩,
   ⟨hostDoes (.poll 0x02 1 0) State.reset, rfl, .inr ⟨rfl, 1, 0, rfl⟩⟩,
   ⟨hostDoes (.write 0x80 .two 1) State.reset, rfl⟩, ⟨hostDoes (.write 0x81 .four 1) State.reset, rfl⟩⟩

theorem witness_ControlWritesServedWhileBusy :
    (∃ s : State, s.busy = true ∧ s.writes 0x04 1) ∧ ∃ s : State, s.busy = true ∧ s.writes 0x10 0x0A :=
  ⟨⟨hostDoes (.write 0x04 .four 1) truncPending, rfl, rfl⟩, ⟨hostDoes (.write 0x10 .four 0x0A) truncPending, rfl, rfl⟩⟩

theorem witness_ConfigWritesStoreAndClearMatch :
    (∃ s : State, s.busy = false ∧ s.writes 0x08 0xFFFFFFFF) ∧ ∃ s : State, s.busy = false ∧ s.writes 0x14 0x1FF :=
  ⟨⟨hostDoes (.write 0x08 .four 0xFFFFFFFF) State.reset, rfl, rfl⟩,
   ⟨hostDoes (.write 0x14 .four 0x1FF) State.reset, rfl, rfl⟩⟩

theorem witness_BufferWritesStoreFourBytes :
    (∃ s : State, s.busy = false ∧ s.writes (BitVec.ofNat 8 (0x40 + 4 * 0)) 1) ∧
    (∃ s : State, s.busy = false ∧ s.writes (BitVec.ofNat 8 (0x40 + 4 * 3)) 1) ∧
    (∃ s : State, s.busy = false ∧ s.writes (BitVec.ofNat 8 (0x80 + 4 * 0)) 1) ∧
    ∃ s : State, s.busy = false ∧ s.writes (BitVec.ofNat 8 (0x80 + 4 * 15)) 1 :=
  ⟨⟨hostDoes (.write 0x40 .four 1) State.reset, rfl, rfl⟩, ⟨hostDoes (.write 0x4C .four 1) State.reset, rfl, rfl⟩,
   ⟨hostDoes (.write 0x80 .four 1) State.reset, rfl, rfl⟩, ⟨hostDoes (.write 0xBC .four 1) State.reset, rfl, rfl⟩⟩

theorem witness_BusyDropsInputAndCommandWrites :
    (∃ s : State, s.busy = true ∧ s.writes 0x08 0 ∧ inputOffset 0x08) ∧
    (∃ s : State, s.busy = true ∧ s.writes 0x14 0 ∧ inputOffset 0x14) ∧
    (∃ s : State, s.busy = true ∧ s.writes 0x4C 0 ∧ inputOffset 0x4C) ∧
    (∃ s : State, s.busy = true ∧ s.writes 0xBC 0 ∧ inputOffset 0xBC) ∧
    ∃ s : State, s.busy = true ∧ s.writes 0x0C 2 := by
  refine ⟨⟨hostDoes (.write 0x08 .four 0) truncPending, rfl, rfl, ?_⟩,
    ⟨hostDoes (.write 0x14 .four 0) truncPending, rfl, rfl, ?_⟩,
    ⟨hostDoes (.write 0x4C .four 0) truncPending, rfl, rfl, ?_⟩,
    ⟨hostDoes (.write 0xBC .four 0) truncPending, rfl, rfl, ?_⟩,
    ⟨hostDoes (.write 0x0C .four 2) truncPending, rfl, rfl⟩⟩ <;> unfold inputOffset <;> decide

theorem witness_ReadOnlyAndReservedWritesIgnored :
    (∃ s : State, s.writes 0x00 1) ∧ (∃ s : State, s.writes 0x18 1) ∧ (∃ s : State, s.writes 0x3C 1) ∧
    (∃ s : State, s.writes 0x50 1) ∧ (∃ s : State, s.writes 0x7C 1) ∧ (∃ s : State, s.writes 0xC0 1) ∧
    ∃ s : State, s.writes 0xFC 1 :=
  ⟨⟨_, writes_hostDoes 0x00 1 State.reset⟩, ⟨_, writes_hostDoes 0x18 1 State.reset⟩,
   ⟨_, writes_hostDoes 0x3C 1 State.reset⟩, ⟨_, writes_hostDoes 0x50 1 State.reset⟩,
   ⟨_, writes_hostDoes 0x7C 1 State.reset⟩, ⟨_, writes_hostDoes 0xC0 1 State.reset⟩,
   ⟨_, writes_hostDoes 0xFC 1 State.reset⟩⟩

theorem witness_BufferWordReadsBackAsWritten :
    (∃ s : State, s.busy = false ∧ s.writes 0x40 1) ∧ (∃ s : State, s.busy = false ∧ s.writes 0x4C 1) ∧
    (∃ s : State, s.busy = false ∧ s.writes 0x80 1) ∧ ∃ s : State, s.busy = false ∧ s.writes 0xBC 1 :=
  ⟨⟨hostDoes (.write 0x40 .four 1) State.reset, rfl, rfl⟩, ⟨hostDoes (.write 0x4C .four 1) State.reset, rfl, rfl⟩,
   ⟨hostDoes (.write 0x80 .four 1) State.reset, rfl, rfl⟩, ⟨hostDoes (.write 0xBC .four 1) State.reset, rfl, rfl⟩⟩

/-! The whole-machine rules about every step: each event they name occurs, and that step answers a next state. -/

theorem witness_MatchSetOnlyByValidate :
    ∃ s t : State, step s = .next t ∧ s.completes .validate ∧ s.verdict = true ∧ t.matched = true :=
  ⟨engineDoes (validatePending cand1 6), _, rfl, rfl, by decide, by decide⟩

theorem witness_DoneSetByCompletionOrRejection :
    (∃ s t : State, step s = .next t ∧ s.completes .nop) ∧ (∃ s t : State, step s = .next t ∧ s.rejects 1) ∧
    ∃ s t : State, step s = .next t ∧ s.done = true ∧ s.acks 1 :=
  ⟨⟨engineDoes { State.reset with pending := some .nop }, _, rfl, rfl⟩,
   ⟨hostDoes (.write 0x0C .four 3) State.reset, _, rfl, rfl, 3, rfl, .inl ⟨rfl, _, rfl⟩⟩,
   ⟨hostDoes (.write 0x10 .four 2) { State.reset with done := true }, _, rfl, rfl, 2, rfl, rfl⟩⟩

theorem witness_ErrBelongsToLastCommandWrite :
    (∃ s t : State, step s = .next t ∧ s.accepts .nop ∧ s.submits ∧ s.err = 2) ∧
    (∃ s t : State, step s = .next t ∧ s.rejects 1 ∧ s.submits) ∧ (∃ s t : State, step s = .next t ∧ s.resets) ∧
    ∃ s t : State, step s = .next t ∧ ¬s.submits ∧ ¬s.resets := by
  refine ⟨⟨hostDoes (.write 0x0C .four 0) { State.reset with err := 2 }, _, rfl, ⟨rfl, 0, rfl, rfl, rfl⟩, ⟨rfl, 0, rfl⟩,
      rfl⟩,
    ⟨hostDoes (.write 0x0C .four 3) State.reset, _, rfl, ⟨rfl, 3, rfl, .inl ⟨rfl, _, rfl⟩⟩, ⟨rfl, 3, rfl⟩⟩,
    ⟨{ truncPending with schedule := [.reset] }, _, rfl, none, rfl⟩, ⟨engineDoes truncPending, _, rfl, ?_, ?_⟩⟩
  · rintro ⟨hb, _⟩
    exact absurd hb (by decide)
  · rintro ⟨_, h⟩
    exact nomatch (show Move.completion Instr.trunc = _ from h)

theorem witness_WbusySetOnlyByDroppedWrite :
    (∃ s t : State, step s = .next t ∧ s.dropsWrite) ∧ ∃ s t : State, step s = .next t ∧ s.wbusy = true ∧ s.acks 3 :=
  ⟨⟨hostDoes (.write 0x0C .four 2) truncPending, _, rfl, rfl, 0x0C, 2, rfl, .inr rfl⟩,
   ⟨hostDoes (.write 0x10 .four 8) { truncPending with wbusy := true }, _, rfl, rfl, 8, rfl, rfl⟩⟩

theorem witness_PendingFollowsAcceptanceAndCompletion :
    (∃ s t : State, step s = .next t ∧ s.accepts .trunc) ∧ (∃ s t : State, step s = .next t ∧ s.completes .trunc) ∧
    ∃ s t : State, step s = .next t ∧ s.resets ∧ s.pending = some .trunc :=
  ⟨⟨hostDoes (.write 0x0C .four 1) State.reset, _, rfl, rfl, 1, rfl, rfl, rfl⟩, ⟨engineDoes truncPending, _, rfl, rfl⟩,
   ⟨{ truncPending with schedule := [.reset] }, _, rfl, ⟨none, rfl⟩, rfl⟩⟩

theorem witness_ResultsChangeOnlyByTruncClearOrReset :
    ∃ s t : State, step s = .next t ∧ ¬s.completes .trunc ∧ ¬s.completes .clear ∧ ¬s.resets := by
  refine ⟨engineDoes (validatePending cand1 6), _, rfl, ?_, ?_, ?_⟩
  · intro h
    exact nomatch (show Move.completion Instr.validate = .completion .trunc from h)
  · intro h
    exact nomatch (show Move.completion Instr.validate = .completion .clear from h)
  · rintro ⟨_, h⟩
    exact nomatch (show Move.completion Instr.validate = _ from h)

theorem witness_InputsChangeOnlyByWritesClearOrReset :
    ∃ s t : State, step s = .next t ∧ ¬s.writesInput ∧ ¬s.completes .clear ∧ ¬s.resets := by
  refine ⟨engineDoes truncPending, _, rfl, ?_, ?_, ?_⟩
  · rintro ⟨hb, _⟩
    exact absurd hb (by decide)
  · intro h
    exact nomatch (show Move.completion Instr.trunc = .completion .clear from h)
  · rintro ⟨_, h⟩
    exact nomatch (show Move.completion Instr.trunc = _ from h)

theorem witness_IrqRisesAndFallsAsStated :
    (∃ s t : State, step s = .next t ∧ s.irq = false ∧ s.ie = true ∧ s.completes .nop) ∧
    (∃ s t : State, step s = .next t ∧ s.irq = false ∧ s.done = true ∧ s.writes 0x04 1) ∧
    (∃ s t : State, step s = .next t ∧ s.irq = true ∧ s.acks 1) ∧
    (∃ s t : State, step s = .next t ∧ s.irq = true ∧ s.accepts .nop) ∧
    (∃ s t : State, step s = .next t ∧ s.irq = true ∧ s.writes 0x04 0) ∧
    ∃ s t : State, step s = .next t ∧ s.irq = true ∧ s.resets :=
  ⟨⟨engineDoes { State.reset with ie := true, pending := some .nop }, _, rfl, rfl, rfl, rfl⟩,
   ⟨hostDoes (.write 0x04 .four 1) { State.reset with done := true }, _, rfl, rfl, rfl, rfl⟩,
   ⟨hostDoes (.write 0x10 .four 2) { State.reset with ie := true, done := true }, _, rfl, rfl, 2, rfl, rfl⟩,
   ⟨hostDoes (.write 0x0C .four 0) { State.reset with ie := true, done := true }, _, rfl, rfl, rfl, 0, rfl, rfl, rfl⟩,
   ⟨hostDoes (.write 0x04 .four 0) { State.reset with ie := true, done := true }, _, rfl, rfl, rfl⟩,
   ⟨{ State.reset with ie := true, done := true, schedule := [.reset] }, _, rfl, rfl, none, rfl⟩⟩

/-- A state that meets the invariant with MATCH = 1, and its step. -/
theorem witness_EveryStepKeepsTheInvariant : ∃ s t : State, s.Inv ∧ step s = .next t ∧ s.matched = true := by
  refine ⟨hostDoes (.write 0x04 .four 1) { validatePending cand1 6 with pending := none, done := true, matched := true },
    _, ?_, rfl, rfl⟩
  exact ⟨nofun, nofun, by decide, fun _ => rfl, fun _ => by decide, .inl ⟨rfl, rfl, rfl, rfl⟩, by decide⟩

theorem witness_HostTurnsBeforeCompletionChangeNoResult :
    ∃ s : State, s.pending = some .trunc ∧ s.matched = false ∧
      s.schedule = List.replicate 2 .host ++ .engine :: [.host] ∧ s.host = [.write 0x80 .four 0xFFFFFFFF] :=
  ⟨{ truncPending with schedule := [.host, .host, .engine, .host], host := [.write 0x80 .four 0xFFFFFFFF] },
   rfl, rfl, rfl, rfl⟩

theorem witness_WaitEndsAfterCompletion :
    ∃ s : State, s.pending = some .validate ∧ s.host = HostLine.wait.expand ++ [.read 0x10 .four] ∧
      s.schedule = List.replicate 2 .host ++ .engine :: .host :: [] :=
  ⟨{ validatePending cand1 6 with
      host := [.poll 0x10 1 0, .read 0x10 .four], schedule := [.host, .host, .engine, .host] }, rfl, rfl, rfl⟩

theorem witness_ExpIsUnobservable : ∃ s s' : State, s.EqButExp s' ∧ s.exp ≠ s'.exp :=
  ⟨State.reset, { State.reset with exp := [0x31] }, rfl, by decide⟩

theorem witness_LddigLoadsTheDigest :
    ∃ (s : State) (bytes : List Byte), (HostLine.lddig bytes).wellFormed = true ∧ s.busy = false ∧
      s.host = (HostLine.lddig bytes).expand ++ [] ∧ s.schedule = List.replicate (bytes.length / 4) .host ++ [] ∧
      bytes.length = 64 :=
  ⟨{ State.reset with
      host := (HostLine.lddig (List.replicate 64 1)).expand ++ [], schedule := List.replicate 16 .host ++ [] },
   List.replicate 64 1, by decide, rfl, rfl, rfl, rfl⟩

/-- A candidate of 17 bytes: four words are written, and LEN is 17. -/
theorem witness_LdcandLoadsTheCandidate :
    ∃ (s : State) (bytes : List Byte), (HostLine.ldcand bytes).wellFormed = true ∧ s.busy = false ∧
      s.host = (HostLine.ldcand bytes).expand ++ [] ∧
      s.schedule = List.replicate (min ((bytes.length + 3) / 4) 4 + 1) .host ++ [] ∧ bytes.length = 17 :=
  ⟨{ State.reset with
      host := (HostLine.ldcand (List.replicate 17 0x30)).expand ++ [], schedule := List.replicate 5 .host ++ [] },
   List.replicate 17 0x30, by decide, rfl, rfl, rfl, rfl⟩

theorem witness_SetcfgAndAckWriteTheirFields :
    (∃ s : State, (HostLine.setcfg 3 15).wellFormed = true ∧ s.busy = false ∧
      s.host = (HostLine.setcfg 3 15).expand ++ [] ∧ s.schedule = .host :: []) ∧
    ∃ s : State, s.host = HostLine.ack.expand ++ [] ∧ s.schedule = .host :: [] :=
  ⟨⟨hostDoes (.write 0x08 .four 0xF3) State.reset, by decide, rfl, rfl, rfl⟩,
   ⟨hostDoes (.write 0x10 .four 0x0A) truncPending, rfl, rfl⟩⟩

/-- P3's `POLL STATUS, 0x2, 0x2`: it holds where DONE is 1, and does not while the TRUNC is pending. -/
theorem witness_PollReadsUntilItsConditionHolds :
    (∃ (s : State) (w : Word), s.host = .poll 0x10 2 2 :: [] ∧ s.nextMove = .bus (.poll 0x10 2 2) ∧
      s.schedule = List.replicate (0 + 1) .host ++ [] ∧ memRead 0x10 .four s = .read w .okay ∧ w &&& 2 = 2) ∧
    ∃ (s : State) (w : Word), s.host = .poll 0x10 2 2 :: [] ∧ s.nextMove = .bus (.poll 0x10 2 2) ∧
      s.schedule = List.replicate (1 + 1) .host ++ [.engine] ∧ memRead 0x10 .four s = .read w .okay ∧ w &&& 2 ≠ 2 :=
  ⟨⟨hostDoes (.poll 0x10 2 2) { State.reset with done := true }, 0x02, rfl, rfl, rfl, by decide, by decide⟩,
   ⟨{ truncPending with host := [.poll 0x10 2 2], schedule := [.host, .host, .engine] }, 0x01, rfl, rfl, rfl,
     by decide, by decide⟩⟩

end Sys2Proof.Tests
end

section
/-! PROOF. Which of the events of Safety a step is, said once with what it does to the block: the whole-machine rules
about the flags (10_state.md R30 to R34) are read off it by cases on the kind of the step. -/

namespace Sys2Proof.Machine

/-- The kinds of step, one for each event of Safety, each with the values its effect depends on. -/
inductive StepKind where
  /-- An idle cycle, a read, or a write that is not served or is ignored. -/
  | silent
  /-- A write of v to CTRL. -/
  | control (v : Word)
  /-- A write of v to STATUS. -/
  | ack (v : Word)
  /-- A write to an input register, with the inputs it leaves. -/
  | input (hashsel : BitVec 2) (digits : BitVec 4) (candlen : BitVec 8) (cand : Vector Byte Config.candMax)
      (digest : Vector Byte Config.digestMax)
  /-- A write dropped because BUSY is 1. -/
  | dropped
  /-- A CMD write rejected with an error. -/
  | rejected (e : CmdError)
  /-- A CMD write that makes i the pending command. -/
  | accepted (i : Instr)
  /-- The engine's completion of i. -/
  | completed (i : Instr)
  /-- A clock edge with rst_n = 0. -/
  | reset

namespace StepKind

/-- A CMD write that is not dropped is rejected or accepted (30_encoding.md R84). -/
@[simp] def isSubmission : StepKind → Bool
  | .rejected _ | .accepted _ => true
  | .silent | .control _ | .ack _ | .input .. | .dropped | .completed _ | .reset => false

/-- A write to an input register that is not dropped (20_memory.md R64). -/
@[simp] def isInput : StepKind → Bool
  | .input .. => true
  | .silent | .control _ | .ack _ | .dropped | .rejected _ | .accepted _ | .completed _ | .reset => false

/-- The block after a step of each kind from s; the response port and the model's own fields are not meant. -/
@[simp] def blockAfter (s : State) : StepKind → State
  | .silent => s
  | .control v => { s with ie := v.getLsbD 0 }
  | .ack v => writeStatus v s
  | .input h d n c g =>
    { s with hashsel := h, digits := d, candlen := n, cand := c, digest := g, matched := false }
  | .dropped => dropWrite s
  | .rejected e => raiseCmdError e { s with matched := false }
  | .accepted i => accept i { s with matched := false }
  | .completed i => { commitOf i s with pending := none, done := true }
  | .reset => State.reset

end StepKind

/-- The events of Safety that the next step is are those of kind k. -/
structure State.EventsAre (s : State) (k : StepKind) : Prop where
  submits : s.submits ↔ k.isSubmission = true
  writesInput : s.writesInput ↔ k.isInput = true
  accepts : ∀ i, s.accepts i ↔ k = .accepted i
  rejects : ∀ code, s.rejects code ↔ ∃ e, k = .rejected e ∧ code = e.bits
  acks : ∀ bit, s.acks bit ↔ ∃ v, k = .ack v ∧ v.getLsbD bit = true
  dropsWrite : s.dropsWrite ↔ k = .dropped
  writesCtrl : ∀ v, s.writes 0x04 v ↔ .control v = k
  completes : ∀ i, s.completes i ↔ k = .completed i
  resets : s.resets ↔ k = .reset

/-- A step is of kind k and takes the block of s where that kind takes it. -/
def State.TakesBlockTo (s t : State) : Prop := ∃ k : StepKind, s.EventsAre k ∧ (k.blockAfter s).SameBlock t

/-! ### States that are the same block -/

namespace State.SameBlock

variable {s t : State} (h : s.SameBlock t)
include h

theorem done_eq : t.done = s.done := by obtain ⟨_, _, _, _, _, rfl⟩ := h.exists_eq; rfl
theorem matched_eq : t.matched = s.matched := by obtain ⟨_, _, _, _, _, rfl⟩ := h.exists_eq; rfl
theorem pending_eq : t.pending = s.pending := by obtain ⟨_, _, _, _, _, rfl⟩ := h.exists_eq; rfl
theorem busy_eq : t.busy = s.busy := by obtain ⟨_, _, _, _, _, rfl⟩ := h.exists_eq; rfl
theorem hashsel_eq : t.hashsel = s.hashsel := by obtain ⟨_, _, _, _, _, rfl⟩ := h.exists_eq; rfl
theorem digits_eq : t.digits = s.digits := by obtain ⟨_, _, _, _, _, rfl⟩ := h.exists_eq; rfl

theorem sameInputs : s.SameInputs t := by
  obtain ⟨_, _, _, _, _, rfl⟩ := h.exists_eq
  exact ⟨rfl, rfl, rfl, rfl, rfl⟩

end State.SameBlock

theorem State.SameInputs.trans {s t u : State} (hst : s.SameInputs t) (htu : t.SameInputs u) : s.SameInputs u := by
  obtain ⟨h1, h2, h3, h4, h5⟩ := hst
  obtain ⟨h1', h2', h3', h4', h5'⟩ := htu
  exact ⟨h1.trans h1', h2.trans h2', h3.trans h3', h4.trans h4', h5.trans h5'⟩

/-- The effect of a kind of step depends on the block alone. -/
theorem blockAfter_sameBlock {s t : State} (h : s.SameBlock t) (k : StepKind) :
    (k.blockAfter s).SameBlock (k.blockAfter t) := by
  obtain ⟨_, _, _, _, _, rfl⟩ := h.exists_eq
  cases k with
  | completed i => cases i <;> rfl
  | _ => rfl

/-! ### The kind of each effect -/

/-- A step that is no aligned 32-bit write is no event of the host; it may be one of the engine or a reset. -/
theorem eventsAre_of_no_write {s : State} {k : StepKind} (hw : ∀ off v, off.toNat % 4 = 0 → ¬s.writes off v)
    (hk : k = .silent ∨ (∃ i, k = .completed i) ∨ k = .reset) (hc : ∀ i, s.completes i ↔ k = .completed i)
    (hr : s.resets ↔ k = .reset) : s.EventsAre k := by
  obtain ⟨hsub, hin, hacc, hrej, hack, hdrop, hctrl⟩ := no_write_events hw
  rcases hk with rfl | ⟨i, rfl⟩ | rfl <;>
    constructor <;> simp [*]

theorem not_completes_of_bus {s : State} {op : HostOp} (hm : s.nextMove = .bus op) (i : Instr) : ¬s.completes i := by
  simp [State.completes, hm]

theorem not_resets_of_bus {s : State} {op : HostOp} (hm : s.nextMove = .bus op) : ¬s.resets := by
  simp [State.resets, hm]

theorem eventsAre_of_idle {s : State} (hm : s.nextMove = .idle) : s.EventsAre .silent :=
  eventsAre_of_no_write (by simp [State.writes, hm]) (.inl rfl) (by simp [State.completes, hm])
    (by simp [State.resets, hm])

theorem eventsAre_of_completion {s : State} {i : Instr} (hm : s.nextMove = .completion i) :
    s.EventsAre (.completed i) :=
  eventsAre_of_no_write (by simp [State.writes, hm]) (.inr (.inl ⟨i, rfl⟩)) (by simp [State.completes, hm])
    (by simp [State.resets, hm])

theorem eventsAre_of_reset {s : State} {op : Option HostOp} (hm : s.nextMove = .reset op) : s.EventsAre .reset :=
  eventsAre_of_no_write (by simp [State.writes, hm]) (.inr (.inr rfl)) (by simp [State.completes, hm])
    (by simp [State.resets, hm])

/-- A bus operation that is no aligned 32-bit write is no event. -/
theorem eventsAre_of_noStore {s : State} {op : HostOp} (hm : s.nextMove = .bus op)
    (hop : ∀ off v, op = .write off .four v → off.toNat % 4 ≠ 0) : s.EventsAre .silent :=
  eventsAre_of_no_write (fun off v ha hw => hop off v (Move.bus.inj (hm.symm.trans hw)) ha) (.inl rfl)
    (by simp [not_completes_of_bus hm]) (by simp [not_resets_of_bus hm])

theorem Slot.ne_of_isInput {slot : Slot} (h : slot.isInput = true) : slot ≠ .ctrl ∧ slot ≠ .status := by
  constructor <;> rintro rfl <;> cases h

/-- A served write to a slot other than CMD is of the kind its slot and BUSY say (20_memory.md R64, R70). -/
theorem takesBlockTo_of_store {s s0 : State} {off : WindowOffset} {v : Word}
    (hm : s.nextMove = .bus (.write off .four v)) (ha : off.toNat % 4 = 0) (hs : slotOf off ≠ .cmd)
    (hb : s.SameBlock s0) : s.TakesBlockTo (writeSlot (slotOf off) v s0) := by
  obtain ⟨hsub, hin, hacc, hrej, hack, hdrop, hctrl⟩ := store_events hm ha hs
  have hcomp := not_completes_of_bus hm
  have hres := not_resets_of_bus hm
  have hblock := blockAfter_sameBlock hb
  rcases writeSlot_cases (slotOf off) v s0 with
    ⟨hnc, hns, hni, ht⟩ | ⟨hc, ht⟩ | ⟨hc, ht⟩ | ⟨hi, ⟨hbusy, ht⟩ | ⟨hbusy, h, d, n, c, g, ht⟩⟩
  · refine ⟨.silent, ?_, by rw [ht]; exact hb⟩
    constructor <;> simp [*]
  · refine ⟨.control v, ?_, ht ▸ hblock (.control v)⟩
    constructor <;> simp [Slot.isInput, *]
  · refine ⟨.ack v, ?_, ht ▸ hblock (.ack v)⟩
    constructor <;> simp [Slot.isInput, *]
  · obtain ⟨hnc, hns⟩ := Slot.ne_of_isInput hi
    rw [hb.busy_eq] at hbusy
    refine ⟨.dropped, ?_, ht ▸ hblock .dropped⟩
    constructor <;> simp [*]
  · obtain ⟨hnc, hns⟩ := Slot.ne_of_isInput hi
    rw [hb.busy_eq] at hbusy
    refine ⟨.input h d n c g, ?_, ht ▸ hblock (.input h d n c g)⟩
    constructor <;> simp [*]

/-! ### CMD writes -/

/-- A CMD write dropped because BUSY is 1 (20_memory.md R70). -/
theorem eventsAre_dropped {s : State} {v : Word} (hm : s.nextMove = .bus (.write 0x0C .four v))
    (hbusy : s.busy = true) : s.EventsAre .dropped := by
  obtain ⟨hsub, hin, hacc, hack, hdrop, hctrl⟩ := command_events hm
  have hrej := rejects_iff hm
  have hcomp := not_completes_of_bus hm
  have hres := not_resets_of_bus hm
  constructor <;> simp [*]

/-- A CMD write rejected with an error (60_exceptions.md R160). -/
theorem eventsAre_rejected {s : State} {v : Word} {e : CmdError} (hm : s.nextMove = .bus (.write 0x0C .four v))
    (hbusy : s.busy = false) (hacc : ∀ i, ¬s.accepts i) (hrej : ∀ code, s.rejects code ↔ code = e.bits) :
    s.EventsAre (.rejected e) := by
  obtain ⟨hsub, hin, -, hack, hdrop, hctrl⟩ := command_events hm
  have hcomp := not_completes_of_bus hm
  have hres := not_resets_of_bus hm
  constructor <;> simp [*]

/-- The rejections of a legal word, by the checks of its command (30_encoding.md R84). -/
theorem rejects_iff_of_legal {s : State} {v : Word} {i : Instr} (hm : s.nextMove = .bus (.write 0x0C .four v))
    (hd : decodeWord v = .ok i) (code : BitVec 4) :
    s.rejects code ↔ s.busy = false ∧ checksCfg i = true ∧
      ((code = CmdError.badhash.bits ∧ hashLegal s.hashsel = false) ∨
       (code = CmdError.baddigits.bits ∧ hashLegal s.hashsel = true ∧ digitsLegal s.digits = false)) := by
  simp only [rejects_iff hm, ← Bool.not_eq_true, hashLegal_iff, digitsLegal_iff]
  cases i <;> simp [hd, checksCfg, CmdError.bits]

/-- A CMD write that is accepted (30_encoding.md R84). -/
theorem eventsAre_accepted {s : State} {v : Word} {i : Instr} (hm : s.nextMove = .bus (.write 0x0C .four v))
    (hd : decodeWord v = .ok i) (hbusy : s.busy = false) (hcfg : cfgLegalFor i s = true) :
    s.EventsAre (.accepted i) := by
  obtain ⟨hsub, hin, hacc, hack, hdrop, hctrl⟩ := command_events hm
  have haccepts : ∀ j, s.accepts j ↔ i = j := fun j => by
    rw [hacc, hd]
    exact ⟨fun ⟨_, hj, _⟩ => Except.ok.inj hj, fun hj => hj ▸ ⟨hbusy, rfl, hcfg⟩⟩
  have hrej : ∀ code, ¬s.rejects code := fun code hr => by
    obtain ⟨-, hchk, hbad⟩ := (rejects_iff_of_legal hm hd code).1 hr
    simp only [cfgLegalFor, hchk, Bool.not_true, Bool.false_or, Bool.and_eq_true] at hcfg
    simp [hcfg] at hbad
  have hcomp := not_completes_of_bus hm
  have hres := not_resets_of_bus hm
  clear hacc
  constructor <;> simp [*]

/-- A write of a legal word to CMD is dropped, rejected or accepted (30_encoding.md R84). -/
theorem takesBlockTo_of_submit {s s0 : State} {v : Word} {i : Instr}
    (hm : s.nextMove = .bus (.write 0x0C .four v)) (hd : decodeWord v = .ok i) (hb : s.SameBlock s0) :
    s.TakesBlockTo (submit i s0) := by
  obtain ⟨-, -, hacc, -, -, -⟩ := command_events hm
  have hrej := rejects_iff_of_legal hm hd
  have hblock := blockAfter_sameBlock hb
  rcases submit_cases i s0 with
    ⟨hbusy, ht⟩ | ⟨hbusy, hchk, hhash, ht⟩ | ⟨hbusy, hchk, hhash, hdigits, ht⟩ | ⟨hbusy, hcfg, ht⟩ <;>
    rw [hb.busy_eq] at hbusy
  · exact ⟨.dropped, eventsAre_dropped hm hbusy, ht ▸ hblock .dropped⟩
  · rw [hb.hashsel_eq] at hhash
    refine ⟨.rejected .badhash, eventsAre_rejected hm hbusy ?_ ?_, ht ▸ hblock (.rejected .badhash)⟩
    · simp [hacc, hd, cfgLegalFor, hchk, hhash]
    · simp [hrej, hbusy, hchk, hhash]
  · rw [hb.hashsel_eq] at hhash
    rw [hb.digits_eq] at hdigits
    refine ⟨.rejected .baddigits, eventsAre_rejected hm hbusy ?_ ?_, ht ▸ hblock (.rejected .baddigits)⟩
    · simp [hacc, hd, cfgLegalFor, hchk, hdigits]
    · simp [hrej, hbusy, hchk, hhash, hdigits]
  · rw [cfgLegalFor, hb.hashsel_eq, hb.digits_eq] at hcfg
    exact ⟨.accepted i, eventsAre_accepted hm hd hbusy hcfg, ht ▸ hblock (.accepted i)⟩

/-- A write of an illegal word to CMD is dropped or rejected with BADCMD (30_encoding.md R83, R84). -/
theorem takesBlockTo_of_submitIllegal {s s0 : State} {v : Word} {r : DecodeReject}
    (hm : s.nextMove = .bus (.write 0x0C .four v)) (hd : decodeWord v = .error r) (hb : s.SameBlock s0) :
    s.TakesBlockTo (submitIllegal s0) := by
  obtain ⟨-, -, hacc, -, -, -⟩ := command_events hm
  have hblock := blockAfter_sameBlock hb
  cases hbusy : s.busy with
  | true =>
    have ht : submitIllegal s0 = dropWrite s0 := by simp [submitIllegal, hb.busy_eq, hbusy]
    exact ⟨.dropped, eventsAre_dropped hm hbusy, ht ▸ hblock .dropped⟩
  | false =>
    have ht : submitIllegal s0 = raiseCmdError .badcmd { s0 with matched := false } := by
      simp [submitIllegal, hb.busy_eq, hbusy]
    refine ⟨.rejected .badcmd, eventsAre_rejected hm hbusy ?_ ?_, ht ▸ hblock (.rejected .badcmd)⟩
    · simp [hacc, hd]
    · simp [rejects_iff hm, hbusy, hd, CmdError.bits]

/-- Every step is of one kind, and takes the block where that kind takes it. -/
theorem step_takesBlockTo {s t : State} (h : step s = .next t) : s.TakesBlockTo t := by
  cases step_effect h with
  | idle s0 hm hb => exact ⟨.silent, eventsAre_of_idle hm, hb⟩
  | noStore s0 op hm hb hop => exact ⟨.silent, eventsAre_of_noStore hm hop, hb⟩
  | stored s0 off v hm ha hs hb => exact takesBlockTo_of_store hm ha hs hb
  | submitted s0 v i hm hd hb => exact takesBlockTo_of_submit hm hd hb
  | illegal s0 v r hm hd hb => exact takesBlockTo_of_submitIllegal hm hd hb
  | completed s0 i hm hp hb =>
    exact ⟨.completed i, eventsAre_of_completion hm, blockAfter_sameBlock hb (.completed i)⟩
  | reset t op hm hb => exact ⟨.reset, eventsAre_of_reset hm, hb⟩

end Sys2Proof.Machine
end

section
/-! PROOF. DONE, PENDING and MATCH after any step (10_state.md R30 to R32): O33, O36 and O32. -/

namespace Sys2Proof.Machine

/-- Settles O33, by cases on the kind of the step. -/
theorem doneSetByCompletionOrRejection : Obligations.DoneSetByCompletionOrRejection := by
  intro s t h
  obtain ⟨k, hev, hblock⟩ := step_takesBlockTo h
  rw [hblock.done_eq]
  simp only [hev.completes, hev.rejects, hev.accepts, hev.acks, hev.resets]
  cases k <;> simp [State.reset]

/-- Settles O36, by cases on the kind of the step. -/
theorem pendingFollowsAcceptanceAndCompletion : Obligations.PendingFollowsAcceptanceAndCompletion := by
  intro s t h
  obtain ⟨k, hev, hblock⟩ := step_takesBlockTo h
  simp only [hev.accepts, hev.resets, hblock.pending_eq]
  refine ⟨?accepted, ?completed, ?reset, ?other, hblock.pending_eq ▸ busy_iff t⟩
  case accepted => rintro i rfl; rfl
  case completed =>
    intro i hi
    obtain rfl := (hev.completes i).1 hi
    exact ⟨pending_of_nextMove hi, rfl⟩
  case reset => rintro rfl; rfl
  case other =>
    intro hacc hcomp hres
    cases k with
    | accepted i => exact absurd ⟨i, rfl⟩ hacc
    | completed i => exact absurd ⟨i, (hev.completes i).2 rfl⟩ hcomp
    | reset => exact absurd rfl hres
    | _ => rfl

/-- MATCH after a step of each kind. -/
theorem blockAfter_matched (s : State) (k : StepKind) :
    (k.blockAfter s).matched = true ↔
      (k = .completed .validate ∧ s.verdict = true) ∨
      (s.matched = true ∧ ¬k.isSubmission = true ∧ ¬k.isInput = true ∧ k ≠ .completed .validate ∧ k ≠ .reset) := by
  cases k with
  | completed i => cases i <;> simp [commitOf]
  | _ => simp [State.reset]

/-- Where MATCH is 1 after a step from a state that meets the invariant, the step left the inputs and they match. No
completion but VALIDATE's leaves MATCH = 1, because MATCH is 0 while a command is pending. -/
theorem inputs_match_of_blockAfter_matched {s : State} {k : StepKind} (hinv : s.Inv)
    (hp : ∀ i, k = .completed i → s.pending = some i) (hm : (k.blockAfter s).matched = true) :
    s.SameInputs (k.blockAfter s) ∧ s.verdict = true := by
  have hkept (h : s.matched = true) : s.verdict = true := by
    obtain ⟨-, -, hv⟩ := hinv.matchSound h
    exact hv
  cases k with
  | silent | control _ | ack _ | dropped => exact ⟨⟨rfl, rfl, rfl, rfl, rfl⟩, hkept hm⟩
  | input | rejected _ | accepted _ | reset => cases hm
  | completed i =>
    obtain ⟨-, hmatched, -⟩ := hinv.busyFlags (by simp [busy_iff, hp i rfl])
    cases i with
    | validate => exact ⟨⟨rfl, rfl, rfl, rfl, rfl⟩, hm⟩
    | nop | trunc | clear => exact absurd (hmatched.symm.trans hm) nofun

/-- Settles O32, by cases on the kind of the step. -/
theorem matchSetOnlyByValidate : Obligations.MatchSetOnlyByValidate := by
  intro s t h
  obtain ⟨k, hev, hblock⟩ := step_takesBlockTo h
  rw [hblock.matched_eq]
  refine ⟨?_, fun hinv hm => ?_⟩
  · rw [blockAfter_matched, hev.completes, hev.submits, hev.writesInput, hev.resets]
  · obtain ⟨hin, hv⟩ := inputs_match_of_blockAfter_matched hinv
      (fun i hk => pending_of_nextMove ((hev.completes i).2 hk)) hm
    have hin_t : s.SameInputs t := hin.trans hblock.sameInputs
    exact ⟨hin_t, verdict_congr hin_t ▸ hv⟩

end Sys2Proof.Machine
end

section
/-! PROOF. The reset state (10_state.md R43): O1. -/

namespace Sys2Proof.Machine

theorem slotOf_id {off : WindowOffset} : slotOf off = .id ↔ off = 0x00 := by revert off; decide
theorem slotOf_cfg {off : WindowOffset} : slotOf off = .cfg ↔ off = 0x08 := by revert off; decide

/-- A word of zeroed bytes is 0 (20_memory.md R65). -/
@[simp] theorem lanes_replicate (n k : Nat) : lanes (Vector.replicate n 0#8) k = 0 := by
  simp [lanes, wordOfBytes]

/-- Every register but ID and CFG reads 0 at reset (10_state.md R43). -/
theorem readSlot_reset {slot : Slot} (hid : slot ≠ .id) (hcfg : slot ≠ .cfg) : readSlot slot State.reset = 0 := by
  cases slot with
  | id => exact absurd rfl hid
  | cfg => exact absurd rfl hcfg
  | out k | cand k | digest k => exact lanes_replicate _ k
  | _ => rfl

theorem reset_atReset : State.reset.AtReset where
  ctrl := rfl
  cfg := ⟨rfl, rfl⟩
  status := ⟨rfl, rfl, rfl, rfl⟩
  candlen := rfl
  cand i _ := byteAt_replicate _ i
  digest i _ := byteAt_replicate _ i
  results := ⟨rfl, rfl, rfl⟩
  out i _ := byteAt_replicate _ i
  pending := rfl
  irq := rfl

/-- Settles O1: what a host reads at reset, by what stands at the offset. -/
theorem resetStateValues : Obligations.ResetStateValues := by
  refine ⟨reset_atReset, rfl, rfl, fun off ha hid hcfg => ?_⟩
  have hserved : served off .four = true := by simp [served, ha]
  rw [memRead, if_pos hserved, readSlot_reset (mt slotOf_id.1 hid) (mt slotOf_cfg.1 hcfg)]

end Sys2Proof.Machine
end

section
/-! PROOF. The register window (20_memory.md R63 to R68): O24, O25 and O30. -/

namespace Sys2Proof.Machine

/-! ### The readings as numbers (20_memory.md R63) -/

@[simp] theorem toNat_flagWord (b : Bool) : (flagWord b).toNat = b.toNat := by cases b <;> rfl

/-- The fields of CFG do not overlap (10_state.md R25). -/
@[simp] theorem toNat_cfgWord (s : State) : s.cfgWord.toNat = s.digits.toNat * 2 ^ 4 + s.hashsel.toNat := by
  have h : ∀ (d : BitVec 4) (h : BitVec 2),
      (d.setWidth 32 <<< 4 ||| h.setWidth 32).toNat = d.toNat * 2 ^ 4 + h.toNat := by decide
  exact h s.digits s.hashsel

/-- The fields of STATUS do not overlap (10_state.md R29). -/
@[simp] theorem toNat_statusWord (s : State) :
    s.statusWord.toNat =
      s.err.toNat * 2 ^ 4 + s.wbusy.toNat * 2 ^ 3 + s.matched.toNat * 2 ^ 2 + s.done.toNat * 2 + s.busy.toNat := by
  have h : ∀ (e : BitVec 4) (w m d b : Bool),
      (e.setWidth 32 <<< 4 ||| flagWord w <<< 3 ||| flagWord m <<< 2 ||| flagWord d <<< 1 ||| flagWord b).toNat =
        e.toNat * 2 ^ 4 + w.toNat * 2 ^ 3 + m.toNat * 2 ^ 2 + d.toNat * 2 + b.toNat := by decide
  exact h s.err s.wbusy s.matched s.done s.busy

@[simp] theorem toNat_lanes {n : Nat} (b : Vector Byte n) (k : Nat) :
    (lanes b k).toNat = (byteAt b k).toNat + (byteAt b (k + 1)).toNat * 2 ^ 8 + (byteAt b (k + 2)).toNat * 2 ^ 16
      + (byteAt b (k + 3)).toNat * 2 ^ 24 :=
  toNat_wordOfBytes ..

/-! ### Served and unserved accesses (20_memory.md R66) -/

theorem served_eq_false {off : WindowOffset} {size : Size} (h : size ≠ .four ∨ off.toNat % 4 ≠ 0) :
    served off size = false := by
  simpa [served, ← imp_iff_not_or] using h

theorem memRead_of_unserved {off : WindowOffset} {size : Size} (h : size ≠ .four ∨ off.toNat % 4 ≠ 0) (s : State) :
    memRead off size s = .read 0 .error := by
  simp [memRead, served_eq_false h]

theorem memRead_of_aligned {off : WindowOffset} (h : off.toNat % 4 = 0) (s : State) :
    memRead off .four s = .read (readSlot (slotOf off) s) .okay := by
  simp [memRead, served, h]

/-- A write that is not served is answered ERROR and stores nothing. -/
theorem step_of_unserved_write {s : State} {off : WindowOffset} {size : Size} {v : Word}
    (hm : s.nextMove = .bus (.write off size v)) (h : size ≠ .four ∨ off.toNat % 4 ≠ 0) :
    ∃ t, step s = .next t ∧ s.SameBlock t ∧ t.response = some (.write .error) := by
  have hserved : served off size = false := served_eq_false h
  rw [step_of_bus hm]
  simp only [busOp, memWrite, writeResp, hserved, Bool.false_eq_true, if_false]
  refine ⟨_, rfl, ?_, rfl⟩
  rw [useTurn_sameBlock s]
  rfl

/-- Settles O25: a read by `memRead_of_unserved`, a write by `step_of_unserved_write`. -/
theorem unservedAccessAnswersError : Obligations.UnservedAccessAnswersError := by
  intro s off size hun
  refine ⟨fun hr => ?_, fun v hm => step_of_unserved_write hm hun⟩
  rw [← memRead_of_unserved hun s]
  exact step_of_reads hr

/-- Settles O24: outside the served accesses by `memRead_of_unserved`, inside them register by register as `slotOf`
finds it. -/
theorem readAnswersTheRegister : Obligations.ReadAnswersTheRegister := by
  intro s off size hr o word
  obtain ⟨t, hstep, hblock, hresp⟩ := step_of_reads hr
  by_cases hun : size ≠ .four ∨ off.toNat % 4 ≠ 0
  case pos =>
    rw [memRead_of_unserved hun] at hresp
    exact ⟨t, 0, .error, hstep, hblock, hresp, fun _ => ⟨rfl, rfl⟩, fun hsize ha => (hun.elim (· hsize) (· ha)).elim⟩
  case neg =>
    obtain ⟨rfl, ha⟩ : size = .four ∧ off.toNat % 4 = 0 := by simpa using hun
    rw [memRead_of_aligned ha] at hresp
    refine ⟨t, _, .okay, hstep, hblock, hresp, fun h => absurd h hun, fun _ _ => ⟨rfl, ?_⟩⟩
    -- Push the number of the answer into the branches of `slotOf`, which are the cases of R63.
    rw [slotOf]
    simp only [apply_ite (readSlot · s), apply_ite BitVec.toNat]
    simp only [readSlot, toNat_flagWord, toNat_cfgWord, toNat_statusWord, toNat_lanes]
    rfl -- what is left are zero-extended fields, whose numbers are theirs by definition

/-! ### Writes that are ignored (20_memory.md R67, R68) -/

/-- A write to a slot that is neither CTRL nor STATUS nor an input stores nothing. -/
theorem writeSlot_of_ignored {slot : Slot} (hctrl : slot ≠ .ctrl) (hstatus : slot ≠ .status)
    (hin : slot.isInput = false) (v : Word) (s : State) : writeSlot slot v s = s := by
  rcases writeSlot_cases slot v s with ⟨-, -, -, h⟩ | ⟨h, -⟩ | ⟨h, -⟩ | ⟨h, -⟩
  · exact h
  · exact absurd h hctrl
  · exact absurd h hstatus
  · exact absurd h (by simp [hin])

/-- At an aligned offset of ID, OFFSET, BINCODE, CODE or OUT, or a reserved one, stands no slot that a write changes
(10_state.md R22). -/
theorem slotOf_readOnly_or_reserved {off : WindowOffset} (ha : off.toNat % 4 = 0)
    (h : off = 0x00 ∨ (0x18 ≤ off.toNat ∧ off.toNat < 0x40) ∨ (0x50 ≤ off.toNat ∧ off.toNat < 0x80) ∨
      0xC0 ≤ off.toNat) :
    slotOf off ≠ .cmd ∧ slotOf off ≠ .ctrl ∧ slotOf off ≠ .status ∧ (slotOf off).isInput = false := by
  revert off
  decide

/-- Settles O30: at these offsets stands no slot that a write changes. -/
theorem readOnlyAndReservedWritesIgnored : Obligations.ReadOnlyAndReservedWritesIgnored := by
  intro s off v hw ha hoff
  obtain ⟨hcmd, hctrl, hstatus, hin⟩ := slotOf_readOnly_or_reserved ha hoff
  obtain ⟨s0, hblock, hresp, hstep⟩ := step_of_store hw ha (mt slotOf_cmd.2 hcmd)
  rw [writeSlot_of_ignored hctrl hstatus hin] at hstep
  exact ⟨s0, hstep, hblock, hresp⟩

end Sys2Proof.Machine
end

section
/-! PROOF. Which words the decoder accepts and rejects, by their numbers (30_encoding.md R81 to R83). -/

namespace Sys2Proof

theorem toNat_opcodeField (w : Word) : (opcodeField w).toNat = w.toNat % 16 := by
  simp [opcodeField]

theorem rsvdField_eq_zero {w : Word} : rsvdField w = 0 ↔ w.toNat / 16 = 0 := by
  have hw := w.isLt
  rw [← BitVec.toNat_inj, rsvdField, toNat_extract]
  simp only [BitVec.ofNat_eq_ofNat, BitVec.toNat_ofNat, Nat.zero_mod]
  omega

/-- A word is a command's exactly when RSVD is 0 and OPCODE is that command's (30_encoding.md R82). -/
theorem decodeWord_eq_ok {w : Word} {i : Instr} :
    decodeWord w = .ok i ↔ w.toNat / 16 = 0 ∧ w.toNat % 16 = i.opcode.toNat := by
  rw [← rsvdField_eq_zero, ← toNat_opcodeField, BitVec.toNat_inj, ← decodeOpcode_eq_ok, decodeWord]
  by_cases h : rsvdField w = 0
  · rw [if_pos h, and_iff_right h]
  · rw [if_neg h]
    exact iff_of_false nofun fun hw => h hw.1

/-- The opcodes of the four commands (30_encoding.md R82). -/
theorem exists_opcode_eq {op : Nat} :
    (∃ i : Instr, op = i.opcode.toNat) ↔ op = 0x0 ∨ op = 0x1 ∨ op = 0x2 ∨ op = 0xF := by
  constructor
  · rintro ⟨i, rfl⟩
    cases i <;> decide
  · rintro (rfl | rfl | rfl | rfl)
    exacts [⟨.nop, rfl⟩, ⟨.trunc, rfl⟩, ⟨.validate, rfl⟩, ⟨.clear, rfl⟩]

/-- A word is rejected exactly when RSVD is not 0 or OPCODE is no command's (30_encoding.md R83). -/
theorem exists_decodeWord_eq_error {w : Word} :
    (∃ r, decodeWord w = .error r) ↔
      w.toNat / 16 ≠ 0 ∨ ¬(w.toNat % 16 = 0x0 ∨ w.toNat % 16 = 0x1 ∨ w.toNat % 16 = 0x2 ∨ w.toNat % 16 = 0xF) := by
  rw [← exists_opcode_eq, ← not_and_or, ← exists_and_left, ← exists_congr fun _ => decodeWord_eq_ok]
  cases decodeWord w <;> simp

end Sys2Proof
end

section
/-! PROOF. The checks of a CMD write in the order written (30_encoding.md R84, 60_exceptions.md R162): O12. -/

namespace Sys2Proof.Machine

/-- TRUNC and VALIDATE, whose CFG is checked, are the commands of OPCODE 0x1 and 0x2 (30_encoding.md R82, R84). -/
theorem checksCfg_iff_opcode (i : Instr) : checksCfg i = true ↔ i.opcode.toNat = 0x1 ∨ i.opcode.toNat = 0x2 := by
  cases i <;> decide

/-- The configuration checks of R84 by the command's OPCODE. -/
theorem cfgLegalFor_iff_opcode (i : Instr) (s : State) :
    cfgLegalFor i s = true ↔
      (i.opcode.toNat = 0x1 ∨ i.opcode.toNat = 0x2 → s.hashsel ≠ 0b11 ∧ 1 ≤ s.digits.toNat ∧ s.digits.toNat ≤ 10) := by
  rw [cfgLegalFor_iff]
  cases i <;> simp [Instr.opcode]

theorem hashLegal_eq_false {h : BitVec 2} : hashLegal h = false ↔ h = 0b11 := by
  rw [← Bool.not_eq_true, hashLegal_iff, not_not]

theorem digitsLegal_eq_false {d : BitVec 4} : digitsLegal d = false ↔ d.toNat < 1 ∨ d.toNat > 10 := by
  rw [← Bool.not_eq_true, digitsLegal_iff]
  omega

/-- The host's turn with a write to CMD: what is left of the operations, and its answer (30_encoding.md R84). -/
theorem step_of_host_command {s : State} {rest : List Turn} {ops : List HostOp} {v : Word}
    (hs : s.schedule = .host :: rest) (hh : s.host = .write 0x0C .four v :: ops) :
    step s = commandWrite v
      { s with schedule := rest, host := ops, mover := .host, response := some (.write .okay) } := by
  have hops : s.host.tail = ops := by rw [hh, List.tail_cons]
  rw [step_of_host hs hh, ← hops]
  rfl

theorem commandWrite_of_ok {v : Word} {i : Instr} {s : State} (hd : decodeWord v = .ok i) (hm : s.mover = .host) :
    commandWrite v s = .next (submit i s) := by
  rw [commandWrite, hd]
  exact exec_host i hm

theorem commandWrite_of_error {v : Word} {r : DecodeReject} (hd : decodeWord v = .error r) (s : State) :
    commandWrite v s = .next (submitIllegal s) := by
  rw [commandWrite, hd]

/-- Everything the submission of an illegal word can do (30_encoding.md R83, R84). -/
theorem submitIllegal_cases (s : State) :
    (s.busy = true ∧ submitIllegal s = dropWrite s) ∨
    (s.busy = false ∧ submitIllegal s = raiseCmdError .badcmd { s with matched := false }) := by
  cases hb : s.busy <;> simp [submitIllegal, hb]

theorem busy_eq_false (s : State) : s.busy = false ↔ ¬s.pending ≠ none := by
  rw [← Bool.not_eq_true, busy_iff]

/-- Settles O12: an illegal word by `submitIllegal_cases`, a legal one by `submit_cases`, whose cases are the checks in
the order written. -/
theorem commandWriteRunsChecksInOrder : Obligations.CommandWriteRunsChecksInOrder := by
  intro s rest ops v hs hh s1 op
  rw [step_of_host_command hs hh]
  cases hd : decodeWord v with
  | error r =>
    have hillegal := exists_decodeWord_eq_error.1 ⟨r, hd⟩
    rw [commandWrite_of_error hd]
    rcases submitIllegal_cases s1 with ⟨hbusy, ht⟩ | ⟨hbusy, ht⟩
    · rw [ht, if_pos ((busy_iff s).1 hbusy)]
      rfl
    · rw [ht, if_neg ((busy_eq_false s).1 hbusy), if_pos hillegal]
      rfl
  | ok i =>
    have hlegal := mt exists_decodeWord_eq_error.2 fun ⟨r, hr⟩ => nomatch hd.symm.trans hr
    obtain ⟨-, hop : op = i.opcode.toNat⟩ := decodeWord_eq_ok.1 hd
    have hchecks : checksCfg i = true → op = 0x1 ∨ op = 0x2 := hop ▸ (checksCfg_iff_opcode i).1
    rw [commandWrite_of_ok hd rfl]
    rcases submit_cases i s1 with
      ⟨hbusy, ht⟩ | ⟨hbusy, hchk, hhash, ht⟩ | ⟨hbusy, hchk, hhash, hdigits, ht⟩ | ⟨hbusy, hcfg, ht⟩
    · rw [ht, if_pos ((busy_iff s).1 hbusy)]
      rfl
    · rw [ht, if_neg ((busy_eq_false s).1 hbusy), if_neg hlegal,
        if_pos ⟨hchecks hchk, hashLegal_eq_false.1 hhash⟩]
      rfl
    · rw [ht, if_neg ((busy_eq_false s).1 hbusy), if_neg hlegal,
        if_neg fun h => (hashLegal_iff _).1 hhash h.2,
        if_pos ⟨hchecks hchk, digitsLegal_eq_false.1 hdigits⟩]
      rfl
    · have hhash : ¬((op = 0x1 ∨ op = 0x2) ∧ s.hashsel = 0b11) := fun ⟨hchk, hbad⟩ =>
        ((cfgLegalFor_iff_opcode i s).1 hcfg (hop ▸ hchk)).1 hbad
      have hdigits : ¬((op = 0x1 ∨ op = 0x2) ∧ (s.digits.toNat < 1 ∨ s.digits.toNat > 10)) := fun ⟨hchk, hbad⟩ => by
        obtain ⟨-, hmin, hmax⟩ := (cfgLegalFor_iff_opcode i s).1 hcfg (hop ▸ hchk)
        omega
      rw [ht, if_neg ((busy_eq_false s).1 hbusy), if_neg hlegal, if_neg hhash, if_neg hdigits, hop]
      cases i <;> rfl

end Sys2Proof.Machine
end

section
/-! PROOF. The completion of TRUNC (40_truncation.md R107): O16. -/

namespace Sys2Proof.Machine

/-! ### binCode as a number (40_truncation.md R103) -/

/-- A field laid above a lower one adds to it, where the two do not overlap and nothing is shifted out. -/
theorem toNat_shiftLeft_or {w n a b : Nat} {x y : BitVec w} (hx : x.toNat = a) (hy : y.toNat = b)
    (ha : a * 2 ^ n < 2 ^ w) (hb : b < 2 ^ n) : (x <<< n ||| y).toNat = a * 2 ^ n + b := by
  subst hx hy
  rw [BitVec.toNat_or, BitVec.toNat_shiftLeft, Nat.shiftLeft_eq, Nat.mod_eq_of_lt ha, ← Nat.shiftLeft_eq,
    Nat.shiftLeft_add_eq_or_of_lt hb]

/-- binCode is the big-endian number of its four digest bytes, the first modulo 128: from the last byte up, each is laid
above those after it. -/
theorem toNat_binCodeAt (g : Vector Byte Config.digestMax) (o : Nat) :
    (binCodeAt g o).toNat =
      (byteAt g o).toNat % 128 * 2 ^ 24 + (byteAt g (o + 1)).toNat * 2 ^ 16 + (byteAt g (o + 2)).toNat * 2 ^ 8
        + (byteAt g (o + 3)).toNat := by
  have hwide : ∀ b : Byte, (b.setWidth 31).toNat = b.toNat := fun _ => BitVec.toNat_setWidth_of_le (by decide)
  have hmask : ∀ b : Byte, (b &&& 0x7F).toNat = b.toNat % 128 := by decide
  have h1 := (byteAt g (o + 1)).isLt
  have h2 := (byteAt g (o + 2)).isLt
  have h3 := (byteAt g (o + 3)).isLt
  have htwo := toNat_shiftLeft_or (n := 8) (hwide (byteAt g (o + 2))) (hwide (byteAt g (o + 3))) (by omega) h3
  have hthree := toNat_shiftLeft_or (n := 16) (hwide (byteAt g (o + 1))) htwo (by omega) (by omega)
  have hfour := toNat_shiftLeft_or (n := 24) ((hwide _).trans (hmask (byteAt g o))) hthree (by omega) (by omega)
  rw [binCodeAt, BitVec.or_assoc, BitVec.or_assoc, hfour, Nat.add_assoc, Nat.add_assoc]

/-! ### OUT after a rendering (40_truncation.md R105, R107) -/

theorem byteAt_outOf_render_of_lt {c d k : Nat} (hk : k < d) (hd : d ≤ 12) :
    byteAt (outOf (render c d)) k = renderDigit c d k := by
  rw [byteAt_outOf _ (hk.trans_le hd), render_getD_of_lt hk]

theorem byteAt_outOf_render_of_le {c d k : Nat} (hd : d ≤ k) (hk : k < 12) : byteAt (outOf (render c d)) k = 0x00 := by
  rw [byteAt_outOf _ hk, render_getD_of_le hd]

/-! ### The completion -/

/-- What the engine's turn makes of a pending TRUNC (30_encoding.md R85, 40_truncation.md R107). -/
theorem exec_trunc_of_pending {s : State} (hm : s.mover = .engine) (hp : s.pending = some .trunc) :
    exec .trunc s = .next { truncCommit s with pending := none, done := true } := by
  rw [exec_engine _ hm, complete_of_pending hp, commitOf]

/-- Settles O16: the completed state is `truncCommit s` but for PENDING and DONE, and each result is read as a number by
its own law. -/
theorem truncCommitsTruncation : Obligations.TruncCommitsTruncation := by
  intro s len hmover hpending hlen _ hmax
  refine ⟨_, exec_trunc_of_pending hmover hpending, ?offset, toNat_binCodeAt .., toNat_codeOf .., ?digit, ?padding, rfl⟩
  case offset =>
    rw [← lastIndex_of_len hlen]
    exact toNat_truncOffset ..
  case digit =>
    intro k hk
    have hout := byteAt_outOf_render_of_lt (c := s.truncation.code.toNat) hk (by omega)
    exact (congrArg BitVec.toNat hout).trans (toNat_renderDigit ..)
  case padding =>
    exact fun k hd hk => byteAt_outOf_render_of_le hd hk

end Sys2Proof.Machine
end

section
/-! PROOF. The completion of VALIDATE and what a host then reads (41_validate.md R123, R125, R128): O17, O21, O22. -/

namespace Sys2Proof.Machine

/-! ### The verdict -/

/-- What the engine's turn makes of a pending VALIDATE (30_encoding.md R85, 41_validate.md R123). -/
theorem exec_validate_of_pending {s : State} (hm : s.mover = .engine) (hp : s.pending = some .validate) :
    exec .validate s = .next { validateCommit s with pending := none, done := true } := by
  rw [exec_engine _ hm, complete_of_pending hp, commitOf]

/-- Settles O17: the completed state is `validateCommit s` but for PENDING and DONE, and its MATCH is the verdict. -/
theorem validateCommitsVerdict : Obligations.ValidateCommitsVerdict := by
  intro s hmover hpending _ _ _
  exact ⟨_, exec_validate_of_pending hmover hpending, rfl, verdict_iff s, rfl⟩

/-- Against the code a TRUNC in s writes to OUT, the verdict on a candidate of length d is whether it is OUT below d. -/
theorem verdict_iff_cand_eq_out {s v : State} (hmax : s.digits.toNat ≤ 12) (hdigest : v.digest = s.digest)
    (hhash : v.hashsel = s.hashsel) (hdigits : v.digits = s.digits) (hlen : v.candlen.toNat = s.digits.toNat) :
    v.verdict = true ↔ ∀ k < s.digits.toNat, byteAt v.cand k = byteAt (truncCommit s).out k := by
  have htrunc : v.truncation = s.truncation := by
    simp only [State.truncation, State.digitCount, hdigest, hhash, hdigits]
  have hout : ∀ k < s.digits.toNat, byteAt (truncCommit s).out k = s.truncation.str.getD k 0 :=
    fun k hk => byteAt_outOf _ (hk.trans_le hmax)
  rw [verdict_iff, hdigits, htrunc, and_iff_right hlen]
  exact forall₂_congr fun k hk => by rw [hout k hk]

/-- Settles O21: both halves of the round trip are `verdict_iff_cand_eq_out`, and equal inputs agree by
`verdict_congr`. -/
theorem validateAcceptsExactlyTheTruncatedCode : Obligations.ValidateAcceptsExactlyTheTruncatedCode := by
  intro s t v hsm hsp _ _ hmax hexec hvm hvp hdigest hhash hdigits hlen
  obtain rfl : { truncCommit s with pending := none, done := true } = t :=
    Host.Outcome.next.inj ((exec_trunc_of_pending hsm hsp).symm.trans hexec)
  have hverdict := verdict_iff_cand_eq_out (s := s) (by omega) hdigest hhash hdigits hlen
  refine ⟨_, exec_validate_of_pending hvm hvp, hverdict.2, ?changed, ?equal⟩
  case changed =>
    rintro ⟨k, hk, hne⟩
    exact Bool.eq_false_iff.2 fun hmatch => hne (hverdict.1 hmatch k hk)
  case equal =>
    exact fun v' hm hp hin => ⟨_, exec_validate_of_pending hm hp, (verdict_congr hin).symm⟩

/-! ### What a host can read -/

/-- The two states differ at most in what STATUS shows (10_state.md R29, R30) and in the hidden EXP (R41). -/
def State.EqButStatusAndExp (s t : State) : Prop :=
  { s with
    done := t.done, matched := t.matched, wbusy := t.wbusy, err := t.err, pending := t.pending, exp := t.exp } = t

/-- Only the reading of STATUS tells such states apart (20_memory.md R63). -/
theorem memRead_eq_of_eqButStatusAndExp {s t : State} (h : s.EqButStatusAndExp t) {off : WindowOffset}
    (hoff : off ≠ 0x10) (size : Size) : memRead off size t = memRead off size s := by
  have hslot : readSlot (slotOf off) t = readSlot (slotOf off) s := by
    rw [← h]
    cases hs : slotOf off with
    | status => exact absurd (slotOf_status.1 hs) hoff
    | _ => rfl
  rw [memRead, memRead, hslot]

/-- A CMD write, be it dropped, rejected or accepted, shows in STATUS alone (30_encoding.md R84). -/
theorem submit_eqButStatusAndExp (i : Instr) (s : State) : s.EqButStatusAndExp (submit i s) := by
  rcases submit_cases i s with ⟨-, h⟩ | ⟨-, -, -, h⟩ | ⟨-, -, -, -, h⟩ | ⟨-, -, h⟩ <;>
    rw [h] <;> rfl

/-- A completion of VALIDATE shows in STATUS alone (41_validate.md R123). -/
theorem complete_validate_eqButStatusAndExp (s : State) :
    s.EqButStatusAndExp (complete .validate validateCommit s) := by
  rw [complete]
  split <;> rfl

/-- Settles O22: the CMD write and the completion each leave all but STATUS and EXP, and EXP has no reading. -/
theorem validateWritesOnlyStatus : Obligations.ValidateWritesOnlyStatus := by
  intro s
  obtain ⟨t, hexec, hsame⟩ : ∃ t, exec .validate s = .next t ∧ s.EqButStatusAndExp t := by
    cases hm : s.mover with
    | host => exact ⟨_, exec_host _ hm, submit_eqButStatusAndExp .validate s⟩
    | engine => exact ⟨_, exec_engine _ hm, complete_validate_eqButStatusAndExp s⟩
  exact ⟨t, hexec, fun _ size hoff => memRead_eq_of_eqButStatusAndExp hsame hoff size⟩

end Sys2Proof.Machine
end

section
/-! PROOF. Rejections and the interrupt (60_exceptions.md R160, R170): O14 and O39. -/

namespace Sys2Proof.Machine

theorem irq_iff (s : State) : s.irq = true ↔ s.ie = true ∧ s.done = true := by rw [State.irq, Bool.and_eq_true]

theorem State.SameBlock.irq_eq {s t : State} (h : s.SameBlock t) : t.irq = s.irq := by
  obtain ⟨_, _, _, _, _, rfl⟩ := h.exists_eq
  rfl

/-- A CMD write answers a next state, whatever its word (60_exceptions.md R163). -/
theorem exists_step_of_command {s : State} {v : Word} (h : s.writes 0x0C v) : ∃ t, step s = .next t := by
  obtain ⟨s0, -, -, hmover, hstep⟩ := step_of_command h
  rw [hstep]
  cases hd : decodeWord v with
  | ok i => exact ⟨_, commandWrite_of_ok hd hmover⟩
  | error r => exact ⟨_, commandWrite_of_error hd s0⟩

/-- Settles O14: the step is of the rejected kind, whose effect on the block is `raiseCmdError` with MATCH cleared. -/
theorem rejectionChangesOnlyStatus : Obligations.RejectionChangesOnlyStatus := by
  intro s code hrej
  have ⟨hbusy, v, hw, _⟩ := hrej
  obtain ⟨t, hstep⟩ := exists_step_of_command hw
  obtain ⟨k, hev, hblock⟩ := step_takesBlockTo hstep
  obtain ⟨e, rfl, rfl⟩ := (hev.rejects code).1 hrej
  refine ⟨t, hstep, hblock, hblock.busy_eq.trans hbusy, ?_⟩
  rw [hblock.irq_eq]
  exact Bool.and_true s.ie

/-! ### When irq rises and when it falls (60_exceptions.md R170) -/

/-- No completion writes CTRL (30_encoding.md R85). -/
@[simp] theorem commitOf_ie (i : Instr) (s : State) : (commitOf i s).ie = s.ie := by cases i <;> rfl

/-- The kinds of step after which irq is 1 where it was 0: those that set DONE, and a CTRL write that sets IE. -/
theorem blockAfter_irq_rises_iff {s : State} (h : s.irq = false) (k : StepKind) :
    (k.blockAfter s).irq = true ↔
      (s.ie = true ∧ ((∃ i, k = .completed i) ∨ ∃ code e, k = .rejected e ∧ code = e.bits)) ∨
      (s.done = true ∧ ∃ v, .control v = k ∧ v.getLsbD 0 = true) := by
  have hoff : s.ie = true → s.done = false := by simpa [State.irq] using h
  cases k with
  | control v => simp [irq_iff, and_comm]
  | completed i => simp [irq_iff]
  | rejected e => simp [irq_iff]
  | reset => simp [irq_iff, State.reset]
  | _ => simp +contextual [irq_iff, hoff]

/-- The kinds of step after which irq is 0 where it was 1: those that clear DONE, those that clear IE, and reset. -/
theorem blockAfter_irq_falls_iff {s : State} (h : s.irq = true) (k : StepKind) :
    (k.blockAfter s).irq = false ↔
      (∃ v, k = .ack v ∧ v.getLsbD 1 = true) ∨ (∃ i, k = .accepted i) ∨
      (∃ v, .control v = k ∧ v.getLsbD 0 = false) ∨ k = .reset := by
  obtain ⟨hie, hdone⟩ := (irq_iff s).1 h
  cases k <;> simp [State.irq, State.reset, hie, hdone]

/-- Settles O39, by the kind of the step. -/
theorem irqRisesAndFallsAsStated : Obligations.IrqRisesAndFallsAsStated := by
  intro s t h
  obtain ⟨k, hev, hblock⟩ := step_takesBlockTo h
  refine ⟨irq_iff t, fun hlow => ?rises, fun hhigh => ?falls⟩
  case rises =>
    simp only [hblock.irq_eq, hev.completes, hev.rejects, hev.writesCtrl]
    exact blockAfter_irq_rises_iff hlow k
  case falls =>
    simp only [hblock.irq_eq, hev.acks, hev.accepts, hev.writesCtrl, hev.resets]
    exact blockAfter_irq_falls_iff hhigh k

end Sys2Proof.Machine
end

section
/-! PROOF. A reset abandons the pending command (70_reset_and_hazards.md R193): O3. -/

namespace Sys2Proof.Machine

/-- A reset turn takes the block to its reset state whatever is pending (70_reset_and_hazards.md R190). -/
theorem step_of_reset {s : State} {rest : List Turn} (hs : s.schedule = .reset :: rest) :
    step s = .next (resetBlock { s with schedule := rest }) := by
  simp [step, takeTurn, State.nextMove, hs, perform, useTurn, resetEdge]

/-- The engine's turn with no command pending is an idle cycle (30_encoding.md R85). -/
theorem step_of_engine_of_idle {s : State} {rest : List Turn} (hp : s.pending = none)
    (hs : s.schedule = .engine :: rest) : step s = .next (idleCycle { s with schedule := rest }) := by
  simp [step, takeTurn, State.nextMove, State.engineMove, hs, hp, perform, useTurn]

/-- Any number of the engine's turns with no command pending leave the block and the host's operations. -/
theorem run_engine_of_idle {n : Nat} {s : State} {rest : List Turn} (hp : s.pending = none)
    (hs : s.schedule = List.replicate n .engine ++ rest) :
    ∃ t, Sys2Proof.core.run n s = .next t ∧ s.SameBlock t ∧ t.schedule = rest ∧ t.host = s.host := by
  induction n generalizing s with
  | zero => exact ⟨s, run_zero s, .refl s, hs, rfl⟩
  | succ n ih =>
    obtain ⟨t, hrun, hblock, hsched, hhost⟩ :=
      ih (s := idleCycle { s with schedule := List.replicate n .engine ++ rest }) hp rfl
    exact ⟨t, (run_succ_of_next (step_of_engine_of_idle hp hs)).trans hrun, hblock, hsched, hhost⟩

/-- The reset values are values of the block alone (10_state.md R43). -/
theorem State.AtReset.of_sameBlock {s t : State} (hs : s.AtReset) (h : s.SameBlock t) : t.AtReset := by
  obtain ⟨_, _, _, _, _, rfl⟩ := h.exists_eq
  obtain ⟨hctrl, hcfg, hstatus, hcandlen, hcand, hdigest, hresults, hout, hpending, hirq⟩ := hs
  exact ⟨hctrl, hcfg, hstatus, hcandlen, hcand, hdigest, hresults, hout, hpending, hirq⟩

/-- Settles O3: the reset leaves nothing pending, so each of the engine's turns after it is an idle cycle. -/
theorem resetAbandonsCommand : Obligations.ResetAbandonsCommand := by
  intro s _ n rest _ hs
  obtain ⟨t, hrun, hblock, hsched, hhost⟩ :=
    run_engine_of_idle (s := resetBlock { s with schedule := List.replicate n .engine ++ rest }) rfl rfl
  have hreset : State.reset.SameBlock t := hblock
  exact ⟨t, (run_succ_of_next (step_of_reset hs)).trans hrun, reset_atReset.of_sameBlock hreset, hsched, hhost⟩

end Sys2Proof.Machine
end

section
/-! PROOF. The decoder and the encoder are inverse, and what the decoder rejects (30_encoding.md R80 to R83): O6, O7
and O5. -/

namespace Sys2Proof

theorem toNat_encode (i : Instr) : (encode i).toNat = i.opcode.toNat := by cases i <;> rfl

/-- A word decodes to a command exactly when it is that command's (30_encoding.md R82). -/
theorem decodeWord_eq_ok_iff_eq_encode {w : Word} {i : Instr} : decodeWord w = .ok i ↔ w = encode i := by
  have hop := i.opcode.isLt
  rw [decodeWord_eq_ok, ← BitVec.toNat_inj, toNat_encode]
  omega

/-- The first four bytes are decoded as a word, and the rest is left over (30_encoding.md R80). -/
theorem decode_cons_eq_ok {b0 b1 b2 b3 : Byte} {bytes rest : List Byte} {i : Instr} :
    decode (b0 :: b1 :: b2 :: b3 :: bytes) = .ok (i, rest) ↔
      decodeWord (wordOfBytes b0 b1 b2 b3) = .ok i ∧ bytes = rest := by
  rw [decode]
  cases decodeWord (wordOfBytes b0 b1 b2 b3) <;> simp

/-- Bytes that decode to a command begin with a word's four (30_encoding.md R80). -/
theorem exists_word_of_decode_eq_ok {bytes rest : List Byte} {i : Instr} (h : decode bytes = .ok (i, rest)) :
    ∃ b0 b1 b2 b3 bytes', bytes = b0 :: b1 :: b2 :: b3 :: bytes' := by
  unfold decode at h
  split at h
  · exact ⟨_, _, _, _, _, rfl⟩
  · cases h

/-- Settles O6: the four bytes of a word and the word of four bytes are inverse, and a word decodes to a command exactly
when it is that command's. -/
theorem decodeInvertsEncode : Obligations.DecodeInvertsEncode := by
  intro bytes i rest _
  constructor
  · intro h
    obtain ⟨b0, b1, b2, b3, bytes', rfl⟩ := exists_word_of_decode_eq_ok h
    obtain ⟨hword, rfl⟩ := decode_cons_eq_ok.1 h
    rw [encodeBytes, ← decodeWord_eq_ok_iff_eq_encode.1 hword, bytesOfWord_wordOfBytes]
    rfl
  · rintro rfl
    refine decode_cons_eq_ok.2 ⟨?_, rfl⟩
    rw [wordOfBytes_extract, decodeWord_eq_ok_iff_eq_encode]

/-- Settles O7: the words that are rejected are those whose OPCODE, below 16, is none of the four. -/
theorem illegalWordsAreTheReservedOnes : Obligations.IllegalWordsAreTheReservedOnes := by
  intro w
  rw [exists_decodeWord_eq_error]
  omega

/-- Settles O5: RSVD of such a word is 0 and its OPCODE the word itself. -/
theorem commandWordsDecodeAsTabled : Obligations.CommandWordsDecodeAsTabled := by
  refine ⟨rfl, rfl, rfl, rfl, fun n hmin hmax => ?_⟩
  interval_cases n <;> rfl

end Sys2Proof
end

section
/-! PROOF. The invariant of every run: it holds at reset (10_state.md R43) and every step keeps it: O40 and O41. -/

namespace Sys2Proof.Machine

/-! ### The invariant is one of the block -/

theorem State.Inv.of_sameBlock {s t : State} (hs : s.Inv) (h : s.SameBlock t) : t.Inv := by
  obtain ⟨_, _, _, _, _, rfl⟩ := h.exists_eq
  obtain ⟨hlegal, hbusy, herr, hmatch, hsound, hresults, hexp⟩ := hs
  exact ⟨hlegal, hbusy, herr, hmatch, hsound, hresults, hexp⟩

/-- Settles O41: nothing is pending, and MATCH, ERR and the results are 0. -/
theorem resetMeetsTheInvariant : Obligations.ResetMeetsTheInvariant where
  pendingLegal _ h := nomatch h
  busyFlags h := nomatch h
  errProduced := Nat.zero_le _
  matchNoError h := nomatch h
  matchSound h := nomatch h
  resultsAgree := .inl ⟨rfl, rfl, rfl, rfl⟩
  expFits := (List.length_replicate ..).le

/-! ### What a completion commits -/

/-- The result registers after a TRUNC under a legal digit count are one truncation's (40_truncation.md R107). -/
theorem resultsAgree_truncCommit {s : State} (hd : digitsLegal s.digits = true) : (truncCommit s).ResultsAgree := by
  obtain ⟨hmin, hmax⟩ := (digitsLegal_iff _).1 hd
  exact .inr ⟨s.digitCount, hmin, hmax, toNat_codeOf .., rfl⟩

/-- EXP after a VALIDATE holds as many bytes as there are digits (41_validate.md R123). -/
theorem length_exp_validateCommit (s : State) : (validateCommit s).exp.length = s.digits.toNat := length_render ..

/-- What the invariant says of a pending command whose CFG is checked. -/
theorem State.Inv.cfg_of_pending {s : State} {i : Instr} (hs : s.Inv) (hp : s.pending = some i)
    (hc : checksCfg i = true) : hashLegal s.hashsel = true ∧ digitsLegal s.digits = true := by
  simpa [cfgLegalFor, hc] using hs.pendingLegal i hp

theorem State.Inv.flags_of_pending {s : State} {i : Instr} (hs : s.Inv) (hp : s.pending = some i) :
    s.done = false ∧ s.matched = false ∧ s.err = errNone :=
  hs.busyFlags (by simp [busy_iff, hp])

/-- The completion of each command keeps the invariant: MATCH, which is 0 while it is pending, is then the verdict of a
VALIDATE, and the results are those of a TRUNC or CLEAR. -/
theorem inv_of_completed {s : State} {i : Instr} (hs : s.Inv) (hp : s.pending = some i) :
    (StepKind.blockAfter s (.completed i)).Inv := by
  obtain ⟨-, hmatched, herr⟩ := hs.flags_of_pending hp
  have hunmatched {P : Prop} (h : s.matched = true) : P := absurd (hmatched.symm.trans h) nofun
  cases i with
  | nop => exact ⟨nofun, nofun, hs.errProduced, hunmatched, hunmatched, hs.resultsAgree, hs.expFits⟩
  | trunc =>
    obtain ⟨-, hdigits⟩ := hs.cfg_of_pending hp rfl
    exact ⟨nofun, nofun, hs.errProduced, hunmatched, hunmatched, resultsAgree_truncCommit hdigits, hs.expFits⟩
  | validate =>
    obtain ⟨hhash, hdigits⟩ := hs.cfg_of_pending hp rfl
    obtain ⟨-, hmax⟩ := (digitsLegal_iff _).1 hdigits
    exact ⟨nofun, nofun, hs.errProduced, fun _ => herr, fun hverdict => ⟨hhash, hdigits, hverdict⟩, hs.resultsAgree,
      (length_exp_validateCommit s).trans_le hmax⟩
  | clear =>
    exact ⟨nofun, nofun, hs.errProduced, hunmatched, hunmatched, .inl ⟨rfl, rfl, rfl, rfl⟩,
      (List.length_replicate ..).le⟩

/-! ### The steps of the host -/

/-- Writes that are dropped, and writes to CTRL and STATUS, at most clear DONE. -/
theorem inv_of_done_cleared {s : State} (hs : s.Inv) (ie done wbusy : Bool) (hdone : s.done = false → done = false) :
    State.Inv { s with ie := ie, done := done, wbusy := wbusy } where
  pendingLegal := hs.pendingLegal
  busyFlags hb :=
    have ⟨hd, hrest⟩ := hs.busyFlags hb
    ⟨hdone hd, hrest⟩
  errProduced := hs.errProduced
  matchNoError := hs.matchNoError
  matchSound := hs.matchSound
  resultsAgree := hs.resultsAgree
  expFits := hs.expFits

/-- Codes 0x4 to 0xF are never produced (60_exceptions.md R161). -/
theorem toNat_bits_le (e : CmdError) : e.bits.toNat ≤ 3 := by cases e <;> decide

/-- A rejection sets ERR to a defined code, and MATCH is 0 (60_exceptions.md R160, R161). -/
theorem inv_of_rejected {s : State} (hs : s.Inv) (hidle : s.busy = false) (e : CmdError) :
    (StepKind.blockAfter s (.rejected e)).Inv where
  pendingLegal := hs.pendingLegal
  busyFlags hb := absurd (hidle.symm.trans hb) nofun
  errProduced := toNat_bits_le e
  matchNoError := nofun
  matchSound := nofun
  resultsAgree := hs.resultsAgree
  expFits := hs.expFits

/-- An acceptance makes a command pending whose configuration was checked (30_encoding.md R84). -/
theorem inv_of_accepted {s : State} {i : Instr} (hs : s.Inv) (hcfg : cfgLegalFor i s = true) :
    (StepKind.blockAfter s (.accepted i)).Inv where
  pendingLegal := by rintro _ ⟨⟩; exact hcfg
  busyFlags _ := ⟨rfl, rfl, rfl⟩
  errProduced := Nat.zero_le _
  matchNoError := nofun
  matchSound := nofun
  resultsAgree := hs.resultsAgree
  expFits := hs.expFits

/-- A write to an input register needs an idle block, and clears MATCH (20_memory.md R64). -/
theorem inv_of_input {s : State} (hs : s.Inv) (hidle : s.busy = false) (h : BitVec 2) (d : BitVec 4) (n : BitVec 8)
    (c : Vector Byte Config.candMax) (g : Vector Byte Config.digestMax) :
    (StepKind.blockAfter s (.input h d n c g)).Inv where
  pendingLegal _ hp := absurd ((busy_iff s).2 (by simp [show s.pending = _ from hp])) (by simp [hidle])
  busyFlags hb := absurd (hidle.symm.trans hb) nofun
  errProduced := hs.errProduced
  matchNoError := nofun
  matchSound := nofun
  resultsAgree := hs.resultsAgree
  expFits := hs.expFits

/-- A step of every kind keeps the invariant. -/
theorem blockAfter_inv {s : State} {k : StepKind} (hs : s.Inv) (hev : s.EventsAre k) : (k.blockAfter s).Inv := by
  cases k with
  | silent => exact hs
  | control v => exact inv_of_done_cleared hs _ s.done s.wbusy id
  | ack v => exact inv_of_done_cleared hs s.ie _ _ (by simp +contextual)
  | dropped => exact inv_of_done_cleared hs s.ie s.done _ id
  | input h d n c g =>
    obtain ⟨hidle, -⟩ := hev.writesInput.2 rfl
    exact inv_of_input hs hidle h d n c g
  | rejected e =>
    obtain ⟨hidle, -⟩ := (hev.rejects e.bits).2 ⟨e, rfl, rfl⟩
    exact inv_of_rejected hs hidle e
  | accepted i =>
    obtain ⟨-, _, -, -, hcfg⟩ := (hev.accepts i).2 rfl
    exact inv_of_accepted hs hcfg
  | completed i => exact inv_of_completed hs (pending_of_nextMove ((hev.completes i).2 rfl))
  | reset => exact resetMeetsTheInvariant

/-- Settles O40: the step is of one kind, each kind keeps the invariant, and the invariant is one of the block. -/
theorem everyStepKeepsTheInvariant : Obligations.EveryStepKeepsTheInvariant := by
  intro s t hs h
  obtain ⟨k, hev, hblock⟩ := step_takesBlockTo h
  exact (blockAfter_inv hs hev).of_sameBlock hblock

end Sys2Proof.Machine
end

section
/-! PROOF. ERR, WBUSY, the results and the inputs after any step (10_state.md R33, R34, R38, R39, 20_memory.md R69,
R70): O34, O35, O37 and O38. -/

namespace Sys2Proof.Machine

namespace State.SameBlock

variable {s t : State} (h : s.SameBlock t)
include h

theorem err_eq : t.err = s.err := by obtain ⟨_, _, _, _, _, rfl⟩ := h.exists_eq; rfl
theorem wbusy_eq : t.wbusy = s.wbusy := by obtain ⟨_, _, _, _, _, rfl⟩ := h.exists_eq; rfl

theorem sameResults : s.SameResults t := by
  obtain ⟨_, _, _, _, _, rfl⟩ := h.exists_eq
  exact ⟨rfl, rfl, rfl, rfl⟩

end State.SameBlock

theorem State.SameResults.trans {s t u : State} (hst : s.SameResults t) (htu : t.SameResults u) : s.SameResults u := by
  obtain ⟨h1, h2, h3, h4⟩ := hst
  obtain ⟨h1', h2', h3', h4'⟩ := htu
  exact ⟨h1.trans h1', h2.trans h2', h3.trans h3', h4.trans h4'⟩

/-- No completion changes ERR (30_encoding.md R85). -/
@[simp] theorem commitOf_err (i : Instr) (s : State) : (commitOf i s).err = s.err := by cases i <;> rfl

/-- No completion changes WBUSY (10_state.md R33). -/
@[simp] theorem commitOf_wbusy (i : Instr) (s : State) : (commitOf i s).wbusy = s.wbusy := by cases i <;> rfl

/-- Settles O34: of the kinds of step, a submission and a reset alone set ERR. -/
theorem errBelongsToLastCommandWrite : Obligations.ErrBelongsToLastCommandWrite := by
  intro s t h
  obtain ⟨k, hev, hblock⟩ := step_takesBlockTo h
  simp only [hblock.err_eq, hev.accepts, hev.rejects, hev.resets, hev.submits]
  refine ⟨?accepted, ?rejected, ?reset, ?either, ?other⟩
  case accepted => rintro i rfl; rfl
  case rejected => rintro code ⟨e, rfl, rfl⟩; rfl
  case reset => rintro rfl; rfl
  case either => cases k <;> simp
  case other => cases k <;> simp

/-- Settles O35: of the kinds of step, a dropped write sets WBUSY, and a STATUS write or a reset clears it. -/
theorem wbusySetOnlyByDroppedWrite : Obligations.WbusySetOnlyByDroppedWrite := by
  intro s t h
  obtain ⟨k, hev, hblock⟩ := step_takesBlockTo h
  simp only [hblock.wbusy_eq, hev.dropsWrite, hev.acks, hev.resets]
  cases k <;> simp [State.reset]

/-- The kinds of step that leave the result registers (70_reset_and_hazards.md R203). -/
theorem blockAfter_sameResults {s : State} {k : StepKind} (htrunc : k ≠ .completed .trunc)
    (hclear : k ≠ .completed .clear) (hreset : k ≠ .reset) : s.SameResults (k.blockAfter s) := by
  cases k with
  | reset => exact absurd rfl hreset
  | completed i =>
    cases i with
    | trunc => exact absurd rfl htrunc
    | clear => exact absurd rfl hclear
    | nop | validate => exact ⟨rfl, rfl, rfl, rfl⟩
  | _ => exact ⟨rfl, rfl, rfl, rfl⟩

/-- The kinds of step that leave the inputs (20_memory.md R69, R70). -/
theorem blockAfter_sameInputs {s : State} {k : StepKind} (hinput : k.isInput = false)
    (hclear : k ≠ .completed .clear) (hreset : k ≠ .reset) : s.SameInputs (k.blockAfter s) := by
  cases k with
  | reset => exact absurd rfl hreset
  | input => cases hinput
  | completed i =>
    cases i with
    | clear => exact absurd rfl hclear
    | nop | trunc | validate => exact ⟨rfl, rfl, rfl, rfl, rfl⟩
  | _ => exact ⟨rfl, rfl, rfl, rfl, rfl⟩

/-- Settles O37, by the kind of the step. -/
theorem resultsChangeOnlyByTruncClearOrReset : Obligations.ResultsChangeOnlyByTruncClearOrReset := by
  intro s t h htrunc hclear hreset
  obtain ⟨k, hev, hblock⟩ := step_takesBlockTo h
  rw [hev.completes] at htrunc hclear
  rw [hev.resets] at hreset
  exact (blockAfter_sameResults htrunc hclear hreset).trans hblock.sameResults

/-- Settles O38, by the kind of the step. -/
theorem inputsChangeOnlyByWritesClearOrReset : Obligations.InputsChangeOnlyByWritesClearOrReset := by
  intro s t h hinput hclear hreset
  obtain ⟨k, hev, hblock⟩ := step_takesBlockTo h
  rw [hev.writesInput, Bool.not_eq_true] at hinput
  rw [hev.completes] at hclear
  rw [hev.resets] at hreset
  exact (blockAfter_sameInputs hinput hclear hreset).trans hblock.sameInputs

end Sys2Proof.Machine
end

section
/-! PROOF. The life of a command and whose step it is (20_memory.md R62, 30_encoding.md R84, R85, 42_control.md): O13,
O15, O18, O8, O9, O11 and O10. -/

namespace Sys2Proof.Machine

/-! ### Acceptance -/

/-- The CMD write of a command from an idle block with a legal configuration (30_encoding.md R84). -/
theorem exec_of_accepted {s : State} {i : Instr} (hm : s.mover = .host) (hp : s.pending = none)
    (hcfg : cfgLegalFor i s = true) : exec i s = .next (accept i { s with matched := false }) := by
  have hidle : s.busy = false := by simp [State.busy, hp]
  rw [exec_host i hm]
  rcases submit_cases i s with ⟨hbusy, -⟩ | ⟨-, hchk, hhash, -⟩ | ⟨-, hchk, -, hdigits, -⟩ | ⟨-, -, h⟩
  · exact absurd (hidle.symm.trans hbusy) nofun
  · simp [cfgLegalFor, hchk, hhash] at hcfg
  · simp [cfgLegalFor, hchk, hdigits] at hcfg
  · rw [h]

/-- Settles O13: the configuration is the one `cfgLegalFor` asks for. -/
theorem acceptedCommandBecomesPending : Obligations.AcceptedCommandBecomesPending :=
  fun s i hm hp hcfg => exec_of_accepted hm hp ((cfgLegalFor_iff i s).2 hcfg)

/-- The engine's turn with command i pending (30_encoding.md R85). -/
theorem exec_of_pending {s : State} {i : Instr} (hm : s.mover = .engine) (hp : s.pending = some i) :
    exec i s = .next { commitOf i s with pending := none, done := true } := by
  rw [exec_engine i hm, complete_of_pending hp]

/-- Settles O15: NOP has no check to fail and nothing to commit. -/
theorem nopAcceptsAndCompletes : Obligations.NopAcceptsAndCompletes := by
  refine ⟨rfl, rfl, fun w _ hrsvd => ?_, fun s hm hp => exec_of_accepted hm hp rfl,
    fun s hm hp => exec_of_pending hm hp⟩
  rw [decodeWord, if_neg (mt rsvdField_eq_zero.1 hrsvd)]

/-- Settles O18: CLEAR has no check to fail, and its completion is `clearCommit`, whose buffers are zeroed bytes. -/
theorem clearErasesInputsAndResults : Obligations.ClearErasesInputsAndResults := by
  refine ⟨rfl, rfl, fun s hm hp => exec_of_accepted hm hp rfl, fun s hm hp => ⟨_, exec_of_pending hm hp, ?_⟩⟩
  exact ⟨fun k _ => byteAt_replicate _ k, fun k _ => byteAt_replicate _ k, rfl, rfl, rfl, rfl,
    fun k _ => byteAt_replicate _ k, fun _ hb => List.eq_of_mem_replicate hb, rfl⟩

/-! ### The host's and the engine's turn -/

/-- Settles O8: the bytes of the word decode to the command that `commandWrite` runs. -/
theorem stepRunsDecodedCommand : Obligations.StepRunsDecodedCommand := by
  intro s rest ops v i hs hh hd _
  have hword : decodeWord v = .ok i := by
    rw [← wordOfBytes_extract v]
    exact (decode_cons_eq_ok.1 hd).1
  rw [step_of_host_command hs hh, commandWrite, hword]

/-- Settles O9: the engine's turn is an idle cycle or the completion, which commits, and sets PENDING and DONE. -/
theorem engineTurnCompletesPending : Obligations.EngineTurnCompletesPending := by
  intro s rest hs
  refine ⟨fun hp => step_of_engine_of_idle hp hs, fun i hp => ?_⟩
  have hstep := step_of_engine hp hs
  refine ⟨?_, _, hstep, rfl, rfl, rfl, commitOf_err i _⟩
  rw [hstep, exec_of_pending (s := { s with schedule := rest, mover := .engine, response := none }) rfl hp]

/-! ### Every move is answered -/

theorem exists_commandWrite_eq_next (v : Word) (s : State) : ∃ t, commandWrite v s = .next t := by
  rw [commandWrite]
  cases decodeWord v with
  | ok i => exact ⟨_, exec_eq_runCommand i s⟩
  | error r => exact ⟨_, rfl⟩

theorem exists_memWrite_eq_next (off : WindowOffset) (size : Size) (v : Word) (s : State) :
    ∃ t, memWrite off size v s = .next t := by
  rw [memWrite]
  split
  · split
    · exact exists_commandWrite_eq_next v s
    · exact ⟨_, rfl⟩
  · exact ⟨_, rfl⟩

theorem exists_perform_eq_next (m : Move) (s : State) : ∃ t, perform m s = .next t := by
  cases m with
  | idle => exact ⟨_, rfl⟩
  | bus op =>
    cases op with
    | read | poll => exact ⟨_, rfl⟩
    | write off size v => exact exists_memWrite_eq_next ..
  | completion i => exact ⟨_, exec_eq_runCommand ..⟩
  | reset op => exact ⟨_, rfl⟩

/-- Settles O11: whatever the move is, it answers a next state. -/
theorem everyStepAnswersNext : Obligations.EveryStepAnswersNext :=
  fun s => exists_perform_eq_next s.nextMove (useTurn s)

/-! ### No schedule -/

/-- The move where no schedule says who moves is the host's or the engine's (assumption 2). -/
theorem freeMove_cases (s : State) :
    (s.freeMove = s.hostMove ∧ (s.host = [] → s.pending = none)) ∨
    (s.freeMove = s.engineMove ∧ s.pending ≠ none) := by
  cases hp : s.pending with
  | none => simp [State.freeMove, hp]
  | some i =>
    cases hh : s.host with
    | nil => simp [State.freeMove, State.engineMove, hp, hh]
    | cons op ops =>
      cases he : Config.engineFirst s.draws <;> simp [State.freeMove, State.engineMove, State.hostMove, hp, hh, he]

/-- Settles O10: one turn put in the schedule makes the move that is free without it. -/
theorem unscheduledStepIsHostsOrEngines : Obligations.UnscheduledStepIsHostsOrEngines := by
  intro s hs
  have hstep : step s = perform s.freeMove { s with schedule := [], draws := s.draws + 1 } := by
    simp [step, takeTurn, State.nextMove, useTurn, hs]
  rcases freeMove_cases s with ⟨hmove, hhost⟩ | ⟨hmove, hpending⟩
  · exact ⟨.host, .inl rfl, by rw [hstep, hmove]; rfl, fun _ => rfl, fun hh hp => absurd (hhost hh) hp⟩
  · exact ⟨.engine, .inr rfl, by rw [hstep, hmove]; rfl, fun hp => absurd hp hpending, fun _ _ => rfl⟩

end Sys2Proof.Machine
end

section
/-! PROOF. The laws of the truncation, what it reads, and what a VALIDATE reveals (40_truncation.md R106, R109,
41_validate.md R124): O19, O20 and O23. -/

namespace Sys2Proof.Machine

/-! ### The rendering as a decimal number (40_truncation.md R109) -/

/-- A rendering of one more digit is that of all digits but the last, and the last (40_truncation.md R105). -/
theorem render_succ (c d : Nat) : render c (d + 1) = render (c / 10) d ++ [renderDigit c (d + 1) d] := by
  have hinit : ∀ i ∈ List.range d, renderDigit c (d + 1) i = renderDigit (c / 10) d i := by
    intro i hi
    have hexp : d + 1 - 1 - i = d - 1 - i + 1 := by
      have := List.mem_range.1 hi
      omega
    rw [renderDigit, renderDigit, hexp, Nat.pow_succ', Nat.div_div_eq_div_mul]
  rw [render, render, List.range_succ, List.map_append, List.map_congr_left hinit]
  rfl

/-- The rendering read back is the number modulo 10^d: the digits before the last are those of c / 10. -/
theorem foldl_render (c d : Nat) :
    (render c d).foldl (fun n b => 10 * n + (b.toNat - 0x30)) 0 = c % 10 ^ d := by
  induction d generalizing c with
  | zero => exact (Nat.mod_one c).symm
  | succ d ih =>
    have hlast : (renderDigit c (d + 1) d).toNat - 0x30 = c % 10 := by
      rw [toNat_renderDigit]
      simp
    rw [render_succ, List.foldl_append, ih, List.foldl_cons, List.foldl_nil, hlast, Nat.pow_succ', Nat.mod_mul,
      Nat.add_comm]

/-- A rendering is made of ASCII digits (40_truncation.md R105). -/
theorem toNat_of_mem_render {c d : Nat} {b : Byte} (hb : b ∈ render c d) : 0x30 ≤ b.toNat ∧ b.toNat ≤ 0x39 := by
  obtain ⟨i, -, rfl⟩ := List.mem_map.1 hb
  rw [toNat_renderDigit]
  omega

/-- Settles O19: the code is binCode modulo 10^d, and its rendering reads back as it. -/
theorem truncationArithmeticLaws : Obligations.TruncationArithmeticLaws := by
  intro digest h d _ _ r
  have hcode : r.code.toNat = r.binCode.toNat % 10 ^ d := toNat_codeOf ..
  have hlt : r.code.toNat < 10 ^ d := hcode ▸ Nat.mod_lt _ (Nat.pow_pos (by decide))
  have hread : r.str.foldl (fun n b => 10 * n + (b.toNat - 0x30)) 0 = r.code.toNat % 10 ^ d := foldl_render ..
  refine ⟨Nat.le_of_lt_succ r.offset.isLt, r.binCode.isLt, lt_min hlt r.code.isLt, ?_, length_render .., fun b hb =>
    toNat_of_mem_render hb, ?_⟩
  · rw [hcode, Nat.mod_eq_sub]
  · rw [hread, Nat.mod_eq_of_lt hlt]

/-! ### What a truncation reads (40_truncation.md R106) -/

/-- binCode reads four bytes (40_truncation.md R103). -/
theorem binCodeAt_congr {g g' : Vector Byte Config.digestMax} {o : Nat}
    (h : ∀ j < 4, byteAt g (o + j) = byteAt g' (o + j)) : binCodeAt g o = binCodeAt g' o := by
  have h0 := h 0 (by decide)
  have h1 := h 1 (by decide)
  have h2 := h 2 (by decide)
  have h3 := h 3 (by decide)
  rw [Nat.add_zero] at h0
  rw [binCodeAt, binCodeAt, h0, h1, h2, h3]

/-- Settles O20: the offset reads the last digest byte and binCode the four at the offset; code and string follow. -/
theorem truncationReadsOnlyFiveBytes : Obligations.TruncationReadsOnlyFiveBytes := by
  intro g g' h d len hlen hlast hfour
  rw [← lastIndex_of_len hlen] at hlast hfour
  have hoffset : truncOffset g h = truncOffset g' h := by rw [truncOffset, truncOffset, hlast]
  rw [← toNat_truncOffset] at hfour
  have hbin := binCodeAt_congr hfour
  simp only [truncate, ← hoffset, ← hbin]

/-! ### What a VALIDATE reveals (41_validate.md R124) -/

/-- Settles O23: a completion of VALIDATE keeps the inputs and writes the verdict and EXP. -/
theorem validateRevealsOnlyTheVerdict : Obligations.ValidateRevealsOnlyTheVerdict := by
  intro s s' hsame hmover hpending hverdict
  have hmover' : s'.mover = .engine := by rw [← hsame]; exact hmover
  have hpending' : s'.pending = some .validate := by rw [← hsame]; exact hpending
  refine ⟨_, _, exec_validate_of_pending hmover hpending, exec_validate_of_pending hmover' hpending', ?_,
    ⟨rfl, rfl, rfl, rfl, rfl⟩, ⟨rfl, rfl, rfl, rfl, rfl⟩⟩
  rw [validateCommit, validateCommit, ← hverdict, ← hsame]
  rfl

end Sys2Proof.Machine
end

section
/-! PROOF. Writes to the register window (10_state.md R24 to R37, 20_memory.md R64, R65, R70): O26, O27, O28, O29 and
O31. -/

namespace Sys2Proof.Machine

/-! ### What a write does depends on the block alone -/

theorem State.SameBlock.trans {s t u : State} (hst : s.SameBlock t) (htu : t.SameBlock u) : s.SameBlock u := by
  obtain ⟨_, _, _, _, _, rfl⟩ := htu.exists_eq
  obtain ⟨_, _, _, _, _, rfl⟩ := hst.exists_eq
  rfl

theorem writeInput_sameBlock {s t : State} {store : State → State} (h : s.SameBlock t)
    (hstore : (store s).SameBlock (store t)) : (writeInput store s).SameBlock (writeInput store t) := by
  rw [writeInput, writeInput, h.busy_eq]
  cases s.busy with
  | true => exact blockAfter_sameBlock h .dropped
  | false =>
    obtain ⟨_, _, _, _, _, heq⟩ := hstore.exists_eq
    rw [heq]
    rfl

theorem writeSlot_sameBlock {s t : State} (h : s.SameBlock t) (slot : Slot) (v : Word) :
    (writeSlot slot v s).SameBlock (writeSlot slot v t) := by
  cases slot with
  | ctrl => exact blockAfter_sameBlock h (.control v)
  | status => exact blockAfter_sameBlock h (.ack v)
  | cfg | candlen | cand | digest =>
    refine writeInput_sameBlock h ?_
    obtain ⟨_, _, _, _, _, rfl⟩ := h.exists_eq
    rfl
  | _ => exact h

/-- A store changes neither the answer of its step nor what the host and the others do next. -/
theorem writeSlot_keeps_ports (slot : Slot) (v : Word) (s : State) :
    (writeSlot slot v s).response = s.response ∧ (writeSlot slot v s).host = s.host ∧
      (writeSlot slot v s).schedule = s.schedule := by
  rcases writeSlot_cases slot v s with ⟨-, -, -, h⟩ | ⟨-, h⟩ | ⟨-, h⟩ | ⟨-, ⟨-, h⟩ | ⟨-, _, _, _, _, _, h⟩⟩ <;>
    rw [h] <;> exact ⟨rfl, rfl, rfl⟩

/-- The step of an aligned 32-bit write to anything but CMD (20_memory.md R64). -/
theorem step_of_store_sameBlock {s : State} {off : WindowOffset} {v : Word} (h : s.writes off v)
    (ha : off.toNat % 4 = 0) (hc : off ≠ 0x0C) :
    ∃ t, step s = .next t ∧ t.response = some (.write .okay) ∧ (writeSlot (slotOf off) v s).SameBlock t := by
  obtain ⟨s0, hblock, hresp, hstep⟩ := step_of_store h ha hc
  obtain ⟨hkept, -, -⟩ := writeSlot_keeps_ports (slotOf off) v s0
  exact ⟨_, hstep, hkept.trans hresp, writeSlot_sameBlock hblock _ v⟩

/-! ### CTRL and STATUS -/

/-- A bit of a word as a number. -/
theorem getLsbD_iff (v : Word) (n : Nat) : v.getLsbD n = true ↔ v.toNat / 2 ^ n % 2 = 1 := by
  rw [← BitVec.testBit_toNat, Nat.testBit_eq_decide_div_mod_eq, decide_eq_true_iff]

/-- A flag after a write of 1 to clear it stays where the bit written is 0 (10_state.md R29). -/
theorem and_not_getLsbD_iff (b : Bool) (v : Word) (n : Nat) :
    (b && !v.getLsbD n) = true ↔ b = true ∧ v.toNat / 2 ^ n % 2 = 0 := by
  rw [Bool.and_eq_true, Bool.not_eq_true', ← Bool.not_eq_true, getLsbD_iff, Nat.mod_two_not_eq_one]

/-- Settles O26: the slots at these offsets are CTRL and STATUS, whose writes do not look at BUSY. -/
theorem controlWritesServedWhileBusy : Obligations.ControlWritesServedWhileBusy := by
  refine fun s v => ⟨fun hw => ?ctrl, fun hw => ?status⟩
  case ctrl =>
    obtain ⟨t, hstep, hresp, hblock⟩ := step_of_store_sameBlock hw (by decide) (by decide)
    rw [slotOf_ctrl.2 rfl] at hblock
    obtain ⟨_, _, _, _, _, rfl⟩ := hblock.exists_eq
    exact ⟨_, hstep, hresp, (getLsbD_iff v 0).trans (by rw [pow_zero, Nat.div_one]), rfl⟩
  case status =>
    obtain ⟨t, hstep, hresp, hblock⟩ := step_of_store_sameBlock hw (by decide) (by decide)
    rw [slotOf_status.2 rfl] at hblock
    obtain ⟨_, _, _, _, _, rfl⟩ := hblock.exists_eq
    exact ⟨_, hstep, hresp, and_not_getLsbD_iff _ v 1, and_not_getLsbD_iff _ v 3, rfl⟩

/-! ### The input registers while BUSY is 0 -/

section Idle

variable {s : State} (hidle : s.busy = false)
include hidle

theorem writeInput_of_idle (store : State → State) : writeInput store s = { store s with matched := false } := by
  rw [writeInput, hidle]
  rfl

theorem writeSlot_cfg_of_idle (v : Word) :
    writeSlot .cfg v s = { s with hashsel := v.extractLsb' 0 2, digits := v.extractLsb' 4 4, matched := false } := by
  rw [writeSlot, writeInput_of_idle hidle]

theorem writeSlot_candlen_of_idle (v : Word) :
    writeSlot .candlen v s = { s with candlen := v.extractLsb' 0 8, matched := false } := by
  rw [writeSlot, writeInput_of_idle hidle]

theorem writeSlot_cand_of_idle (k : Nat) (v : Word) :
    writeSlot (.cand k) v s = { s with cand := putLanes s.cand k v, matched := false } := by
  rw [writeSlot, writeInput_of_idle hidle]

theorem writeSlot_digest_of_idle (k : Nat) (v : Word) :
    writeSlot (.digest k) v s = { s with digest := putLanes s.digest k v, matched := false } := by
  rw [writeSlot, writeInput_of_idle hidle]

end Idle

theorem slotOf_candlen {off : WindowOffset} : slotOf off = .candlen ↔ off = 0x14 := by revert off; decide

/-- The number of the lowest bits of a word. -/
theorem toNat_extract_zero (v : Word) (w : Nat) : (v.extractLsb' 0 w).toNat = v.toNat % 2 ^ w := by
  rw [toNat_extract, pow_zero, Nat.div_one]

/-- Settles O27: the stored fields are the bits of the word. -/
theorem configWritesStoreAndClearMatch : Obligations.ConfigWritesStoreAndClearMatch := by
  refine fun s v hidle => ⟨fun hw => ?cfg, fun hw => ?candlen⟩
  case cfg =>
    obtain ⟨t, hstep, hresp, hblock⟩ := step_of_store_sameBlock hw (by decide) (by decide)
    rw [slotOf_cfg.2 rfl, writeSlot_cfg_of_idle hidle] at hblock
    obtain ⟨_, _, _, _, _, rfl⟩ := hblock.exists_eq
    exact ⟨_, hstep, hresp, toNat_extract_zero v 2, toNat_extract v 4 4, rfl⟩
  case candlen =>
    obtain ⟨t, hstep, hresp, hblock⟩ := step_of_store_sameBlock hw (by decide) (by decide)
    rw [slotOf_candlen.2 rfl, writeSlot_candlen_of_idle hidle] at hblock
    obtain ⟨_, _, _, _, _, rfl⟩ := hblock.exists_eq
    exact ⟨_, hstep, hresp, toNat_extract_zero v 8, rfl⟩

/-! ### CAND and DIGEST -/

/-- Byte j of a word written to a buffer lands at index k + j (20_memory.md R65). -/
theorem toNat_byteAt_putLanes {n k j : Nat} (b : Vector Byte n) (hk : k + 3 < n) (v : Word) (hj : j < 4) :
    (byteAt (putLanes b k v) (k + j)).toNat = v.toNat / 2 ^ (8 * j) % 256 := by
  rw [byteAt_putLanes b hk, if_pos (by omega), Nat.add_sub_cancel_left]
  exact toNat_extract v _ 8

/-- A word written to a buffer leaves every other byte (20_memory.md R64). -/
theorem byteAt_putLanes_of_outside {n k i : Nat} (b : Vector Byte n) (hk : k + 3 < n) (v : Word)
    (hi : i < k ∨ k + 4 ≤ i) : byteAt (putLanes b k v) i = byteAt b i := by
  rw [byteAt_putLanes b hk, if_neg (by omega)]

/-- Word k of CAND stands at 0x40 + 4k (10_state.md R22). -/
theorem slotOf_cand_word {k : Nat} (hk : k < 4) : slotOf (BitVec.ofNat 8 (0x40 + 4 * k)) = .cand (4 * k) := by
  revert k
  decide

/-- Word k of DIGEST stands at 0x80 + 4k (10_state.md R22). -/
theorem slotOf_digest_word {k : Nat} (hk : k < 16) : slotOf (BitVec.ofNat 8 (0x80 + 4 * k)) = .digest (4 * k) := by
  revert k
  decide

/-- An offset of the window that is a multiple of 4 as a number is aligned, and from 0x40 on it is not CMD. -/
theorem aligned_and_ne_cmd {base k : Nat} (hbase : base % 4 = 0) (hlow : 0x40 ≤ base) (hhigh : base + 4 * k < 256) :
    (BitVec.ofNat 8 (base + 4 * k)).toNat % 4 = 0 ∧ BitVec.ofNat 8 (base + 4 * k) ≠ 0x0C#8 := by
  rw [ne_eq, ← BitVec.toNat_inj, BitVec.toNat_ofNat, BitVec.toNat_ofNat, Nat.mod_eq_of_lt hhigh]
  omega

/-- Settles O28: the slot is the buffer word, and the write is `putLanes` on it. -/
theorem bufferWritesStoreFourBytes : Obligations.BufferWritesStoreFourBytes := by
  refine fun s v k hidle => ⟨fun hk hw => ?cand, fun hk hw => ?digest⟩
  case cand =>
    obtain ⟨ha, hc⟩ := aligned_and_ne_cmd (base := 0x40) (k := k) rfl le_rfl (by omega)
    obtain ⟨t, hstep, hresp, hblock⟩ := step_of_store_sameBlock hw ha hc
    rw [slotOf_cand_word hk, writeSlot_cand_of_idle hidle] at hblock
    obtain ⟨_, _, _, _, _, rfl⟩ := hblock.exists_eq
    have hfits : 4 * k + 3 < 16 := by omega
    exact ⟨_, hstep, hresp, fun j hj => toNat_byteAt_putLanes s.cand hfits v hj,
      fun i hi => byteAt_putLanes_of_outside s.cand hfits v hi, rfl⟩
  case digest =>
    obtain ⟨ha, hc⟩ := aligned_and_ne_cmd (base := 0x80) (k := k) rfl (by decide) (by omega)
    obtain ⟨t, hstep, hresp, hblock⟩ := step_of_store_sameBlock hw ha hc
    rw [slotOf_digest_word hk, writeSlot_digest_of_idle hidle] at hblock
    obtain ⟨_, _, _, _, _, rfl⟩ := hblock.exists_eq
    have hfits : 4 * k + 3 < 64 := by omega
    exact ⟨_, hstep, hresp, fun j hj => toNat_byteAt_putLanes s.digest hfits v hj,
      fun i hi => byteAt_putLanes_of_outside s.digest hfits v hi, rfl⟩

/-! ### Reading back -/

/-- Two states read alike at an offset where what stands there reads alike, if it is aligned. -/
theorem memRead_congr {s t : State} {off : WindowOffset}
    (h : off.toNat % 4 = 0 → readSlot (slotOf off) t = readSlot (slotOf off) s) (size : Size) :
    memRead off size t = memRead off size s := by
  by_cases hun : size ≠ .four ∨ off.toNat % 4 ≠ 0
  · rw [memRead_of_unserved hun, memRead_of_unserved hun]
  · obtain ⟨rfl, ha⟩ : size = .four ∧ off.toNat % 4 = 0 := by simpa using hun
    rw [memRead_of_aligned ha, memRead_of_aligned ha, h ha]

/-- The aligned offsets of CAND and DIGEST hold whole words of the buffers (10_state.md R22). -/
theorem slotOf_buffer {off : WindowOffset} (ha : off.toNat % 4 = 0)
    (h : (0x40 ≤ off.toNat ∧ off.toNat ≤ 0x4C) ∨ (0x80 ≤ off.toNat ∧ off.toNat ≤ 0xBC)) :
    off ≠ 0x0C ∧
      ((slotOf off = .cand (off.toNat - 0x40) ∧ off.toNat - 0x40 + 3 < 16) ∨
       (slotOf off = .digest (off.toNat - 0x80) ∧ off.toNat - 0x80 + 3 < 64)) := by
  revert off
  decide

/-- A word written to CAND shows at its own offset and, through MATCH, in STATUS. -/
theorem readSlot_of_cand_write {s : State} {k : Nat} (hk : k + 3 < 16) (v : Word) {slot : Slot} (hs : slot ≠ .status)
    (hother : ∀ k', slot = .cand k' → k + 3 < k' ∨ k' + 3 < k) :
    readSlot slot { s with cand := putLanes s.cand k v, matched := false } = readSlot slot s := by
  cases slot with
  | status => exact absurd rfl hs
  | cand k' => exact lanes_putLanes_other s.cand hk v (hother k' rfl)
  | _ => rfl

/-- A word written to DIGEST shows at its own offset and, through MATCH, in STATUS. -/
theorem readSlot_of_digest_write {s : State} {k : Nat} (hk : k + 3 < 64) (v : Word) {slot : Slot} (hs : slot ≠ .status)
    (hother : ∀ k', slot = .digest k' → k + 3 < k' ∨ k' + 3 < k) :
    readSlot slot { s with digest := putLanes s.digest k v, matched := false } = readSlot slot s := by
  cases slot with
  | status => exact absurd rfl hs
  | digest k' => exact lanes_putLanes_other s.digest hk v (hother k' rfl)
  | _ => rfl

/-- Settles O31: the word of the buffer is read back by `lanes_putLanes_self`, and another aligned offset is another
register or a word apart from it. -/
theorem bufferWordReadsBackAsWritten : Obligations.BufferWordReadsBackAsWritten := by
  intro s off v hidle hw ha hoff
  obtain ⟨hc, hslot⟩ := slotOf_buffer ha hoff
  obtain ⟨t, hstep, -, hblock⟩ := step_of_store_sameBlock hw ha hc
  have hread := fun off size => memRead_sameBlock hblock off size
  refine ⟨t, hstep, ?self, fun off' size hne hs => ?other⟩
  case self =>
    rw [hread, memRead_of_aligned ha]
    rcases hslot with ⟨hslot, hk⟩ | ⟨hslot, hk⟩
    · rw [hslot, writeSlot_cand_of_idle hidle, readSlot, lanes_putLanes_self _ hk]
    · rw [hslot, writeSlot_digest_of_idle hidle, readSlot, lanes_putLanes_self _ hk]
  case other =>
    rw [hread]
    refine memRead_congr (fun ha' => ?_) size
    have hstatus := mt slotOf_status.1 hs
    have hapart : off.toNat + 3 < off'.toNat ∨ off'.toNat + 3 < off.toNat := by
      have := mt BitVec.eq_of_toNat_eq hne
      omega
    rcases hslot with ⟨hslot, hk⟩ | ⟨hslot, hk⟩
    · rw [hslot, writeSlot_cand_of_idle hidle]
      obtain ⟨hoff, -⟩ := slotOf_cand hslot
      refine readSlot_of_cand_write hk v hstatus fun k' hk' => ?_
      obtain ⟨hoff', -⟩ := slotOf_cand hk'
      omega
    · rw [hslot, writeSlot_digest_of_idle hidle]
      obtain ⟨hoff, -⟩ := slotOf_digest hslot
      refine readSlot_of_digest_write hk v hstatus fun k' hk' => ?_
      obtain ⟨hoff', -⟩ := slotOf_digest hk'
      omega

/-! ### Writes while BUSY is 1 (20_memory.md R70) -/

theorem writeSlot_of_busy {slot : Slot} {s : State} (hin : slot.isInput = true) (hbusy : s.busy = true) (v : Word) :
    writeSlot slot v s = dropWrite s := by
  rcases writeSlot_cases slot v s with ⟨-, -, hni, -⟩ | ⟨rfl, -⟩ | ⟨rfl, -⟩ | ⟨-, ⟨-, h⟩ | ⟨hidle, -⟩⟩
  · exact absurd (hni.symm.trans hin) nofun
  · cases hin
  · cases hin
  · exact h
  · exact absurd (hidle.symm.trans hbusy) nofun

theorem commandWrite_of_busy {s : State} (hm : s.mover = .host) (hbusy : s.busy = true) (v : Word) :
    commandWrite v s = .next (dropWrite s) := by
  cases hd : decodeWord v with
  | ok i => rw [commandWrite_of_ok hd hm, submit, if_pos hbusy]
  | error r => rw [commandWrite_of_error hd, submitIllegal, if_pos hbusy]

/-- Settles O29: an input slot drops the write by `writeSlot_of_busy`, CMD by `commandWrite_of_busy`. -/
theorem busyDropsInputAndCommandWrites : Obligations.BusyDropsInputAndCommandWrites := by
  rintro s off v hbusy hw (hin | rfl)
  · have ha := hin.1
    have hc : off ≠ 0x0C := by rintro rfl; exact absurd ((slotOf_isInput ha).2 hin) (by decide)
    obtain ⟨t, hstep, hresp, hblock⟩ := step_of_store_sameBlock hw ha hc
    rw [writeSlot_of_busy ((slotOf_isInput ha).2 hin) hbusy] at hblock
    exact ⟨t, hstep, hresp, hblock⟩
  · obtain ⟨s0, hblock, hresp, hmover, hstep⟩ := step_of_command hw
    rw [commandWrite_of_busy hmover (hblock.busy_eq.trans hbusy)] at hstep
    exact ⟨_, hstep, hresp, blockAfter_sameBlock hblock .dropped⟩

end Sys2Proof.Machine
end

section
/-! PROOF. The reset edge and the first command after it (70_reset_and_hazards.md R190, R195): O2 and O4. -/

namespace Sys2Proof.Machine

/-- A reset turn with a bus operation: the block is reset and the operation is answered by `resetResponse`. -/
theorem step_of_resetBus {s : State} {rest : List Turn} (hs : s.schedule = .resetBus :: rest) :
    step s = .next (resetEdge s.host.head? { s with schedule := rest }) := by
  simp [step, takeTurn, State.nextMove, hs, perform, useTurn]

theorem resetEdge_sameBlock (op : Option HostOp) (s : State) : State.reset.SameBlock (resetEdge op s) := by
  cases op <;> rfl

@[simp] theorem resetEdge_schedule (op : Option HostOp) (s : State) : (resetEdge op s).schedule = s.schedule := by
  cases op <;> rfl

/-- Settles O2: each reset turn makes a reset edge, whose answer to a bus operation is `resetResponse`, and the turn
after it is the host's like any other. -/
theorem resetTakesPrecedence : Obligations.ResetTakesPrecedence := by
  rintro s rest (hs | hs)
  · have hnot : s.schedule ≠ .resetBus :: rest := by simp [hs]
    exact ⟨_, step_of_reset hs, reset_atReset.of_sameBlock rfl, rfl, fun _ => rfl,
      fun _ _ _ hbus => absurd hbus hnot, fun _ _ _ _ hbus => absurd hbus hnot,
      fun _ _ _ _ hbus => absurd hbus hnot, fun _ _ _ hlater hh => step_of_host hlater hh⟩
  · refine ⟨_, step_of_resetBus hs, reset_atReset.of_sameBlock (resetEdge_sameBlock _ _), resetEdge_schedule _ _,
      by simp [hs], ?read, ?write, ?poll,
      fun _ _ _ hlater hh => step_of_host ((resetEdge_schedule _ _).trans hlater) hh⟩
    case read => rintro off size ops - hh; simp [hh, resetEdge, resetResponse]
    case write => rintro off size v ops - hh; simp [hh, resetEdge, resetResponse]
    case poll => rintro off mask value ops - hh; simp [hh, resetEdge, resetResponse]

/-! ### The first TRUNC -/

/-- A digest of reset truncates, with SHA1 and 6 digits, to 000000 (70_reset_and_hazards.md R195). -/
theorem truncate_replicate_zero :
    truncate (Vector.replicate Config.digestMax 0) 0 6 =
      { offset := 0, binCode := 0, code := 0, str := List.replicate 6 0x30 } := by
  have hoffset : truncOffset (Vector.replicate Config.digestMax 0) 0 = 0 := by simp [truncOffset]
  have hbin : binCodeAt (Vector.replicate Config.digestMax 0) 0 = 0 := by simp [binCodeAt]
  simp only [truncate, hoffset]
  rw [show (0 : BitVec 4).toNat = 0 from rfl, hbin]
  rfl

theorem truncation_of_atReset {s : State} (h : s.AtReset) :
    s.truncation = { offset := 0, binCode := 0, code := 0, str := List.replicate 6 0x30 } := by
  obtain ⟨hhash, hdigits⟩ := h.cfg
  have hdigest : s.digest = Vector.replicate Config.digestMax 0 :=
    ext_byteAt fun i hi => (h.digest i hi).trans (byteAt_replicate _ i).symm
  rw [State.truncation, hdigest, hhash, State.digitCount, hdigits]
  exact truncate_replicate_zero

/-- STATUS where a command has completed and nothing else is to be told (10_state.md R29). -/
theorem statusWord_of_completed {s : State} (herr : s.err = errNone) (hwbusy : s.wbusy = false)
    (hmatched : s.matched = false) (hdone : s.done = true) (hidle : s.busy = false) : s.statusWord = 0x00000002 := by
  rw [State.statusWord, herr, hwbusy, hmatched, hdone, hidle]
  rfl

/-- Settles O4: the CMD write is accepted, for the reset configuration is legal, and the engine's turn commits the
truncation of the reset digest. -/
theorem firstTruncAfterReset : Obligations.FirstTruncAfterReset := by
  intro s ops rest hreset hh hs
  have htrunc := truncation_of_atReset hreset
  obtain ⟨hhash, hdigits⟩ := hreset.cfg
  obtain ⟨-, -, hwbusy, -⟩ := hreset.status
  have hcfg : cfgLegalFor .trunc s = true := by rw [cfgLegalFor, hhash, hdigits]; rfl
  have hfirst := (step_of_host_command hs hh).trans (exec_of_accepted (i := .trunc) rfl hreset.pending hcfg)
  have hword (k : Nat) : Response.read (lanes (outOf s.truncation.str) k) .okay =
      .read (lanes (outOf (List.replicate 6 0x30)) k) .okay := by rw [htrunc]
  exact ⟨_, (run_succ_of_next hfirst).trans (run_succ_of_next (step_of_engine rfl rfl)),
    congrArg TruncResult.offset htrunc, congrArg TruncResult.binCode htrunc, congrArg TruncResult.code htrunc,
    hword 0, hword 4, hword 8,
    congrArg (Response.read · .okay) (statusWord_of_completed rfl hwbusy rfl rfl rfl)⟩

end Sys2Proof.Machine
end

section
/-! PROOF. Polls, and the host's turns before a completion (20_memory.md R70, R72, 30_encoding.md R88,
70_reset_and_hazards.md R207): O49, O42 and O43. -/

namespace Sys2Proof.Machine

/-! ### Runs in two parts -/

/-- A run goes on from where a shorter one ends; no run stops, because every step answers a next state. -/
theorem run_add {n : Nat} {s u : State} (h : Sys2Proof.core.run n s = .next u) (m : Nat) :
    Sys2Proof.core.run (n + m) s = Sys2Proof.core.run m u := by
  induction n generalizing s with
  | zero =>
    obtain rfl : s = u := Host.Outcome.next.inj h
    rw [Nat.zero_add]
  | succ n ih =>
    obtain ⟨t, hstep⟩ := everyStepAnswersNext s
    rw [run_succ_of_next hstep] at h
    rw [Nat.succ_add, run_succ_of_next hstep, ih h]

theorem run_one {s t : State} (h : step s = .next t) : Sys2Proof.core.run 1 s = .next t :=
  run_succ_of_next (n := 0) h

/-! ### The turn of the schedule is used up -/

theorem runCommand_schedule (i : Instr) (s : State) : (runCommand i (commitOf i) s).schedule = s.schedule := by
  rw [runCommand]
  split
  · rcases submit_cases i s with ⟨-, h⟩ | ⟨-, -, -, h⟩ | ⟨-, -, -, -, h⟩ | ⟨-, -, h⟩ <;> rw [h] <;> rfl
  · rw [complete]
    split
    · cases i <;> rfl
    · rfl

theorem submitIllegal_schedule (s : State) : (submitIllegal s).schedule = s.schedule := by
  rcases submitIllegal_cases s with ⟨-, h⟩ | ⟨-, h⟩ <;> rw [h] <;> rfl

theorem memWrite_schedule {off : WindowOffset} {size : Size} {v : Word} {s t : State}
    (h : memWrite off size v s = .next t) : t.schedule = s.schedule := by
  unfold memWrite at h
  split at h
  · split at h
    · unfold commandWrite at h
      split at h
      · rw [exec_eq_runCommand] at h
        exact Host.Outcome.next.inj h ▸ runCommand_schedule ..
      · exact Host.Outcome.next.inj h ▸ submitIllegal_schedule s
    · obtain ⟨-, -, hsched⟩ := writeSlot_keeps_ports (slotOf off) v s
      exact Host.Outcome.next.inj h ▸ hsched
  · exact Host.Outcome.next.inj h ▸ rfl

/-- No move changes who moves next. -/
theorem perform_schedule {m : Move} {s t : State} (h : perform m s = .next t) : t.schedule = s.schedule := by
  cases m with
  | idle => exact Host.Outcome.next.inj h ▸ rfl
  | bus op =>
    cases op with
    | read | poll => exact Host.Outcome.next.inj h ▸ rfl
    | write => exact (memWrite_schedule h).trans rfl
  | completion i =>
    rw [perform, completion, exec_eq_runCommand] at h
    exact Host.Outcome.next.inj h ▸ runCommand_schedule ..
  | reset op => exact Host.Outcome.next.inj h ▸ resetEdge_schedule ..

/-- A step uses up the turn that was scheduled for it. -/
theorem step_schedule {s t : State} {turn : Turn} {rest : List Turn} (hs : s.schedule = turn :: rest)
    (h : step s = .next t) : t.schedule = rest := by
  rw [perform_schedule h, useTurn, hs]

/-! ### `POLL` (30_encoding.md R88) -/

theorem nextMove_of_host {s : State} {op : HostOp} {ops : List HostOp} {rest : List Turn}
    (hs : s.schedule = .host :: rest) (hh : s.host = op :: ops) : s.nextMove = .bus op := by
  simp [State.nextMove, State.hostMove, hs, hh]

/-- One read of a `POLL`. -/
theorem step_of_poll {s : State} {off : WindowOffset} {mask value : Word}
    (h : s.nextMove = .bus (.poll off mask value)) :
    ∃ t, step s = .next t ∧ s.SameBlock t ∧ t.response = some (memRead off .four s) ∧
      t.host = hostAfter (.poll off mask value) (memRead off .four s) s.host := by
  have hturn : s.SameBlock (useTurn s) := by rw [useTurn_sameBlock s]; rfl
  have hread : memRead off .four (useTurn s) = memRead off .four s := memRead_sameBlock hturn off .four
  exact ⟨_, step_of_bus h, hturn.trans rfl, congrArg some hread,
    congrArg₂ (hostAfter (.poll off mask value)) hread (useTurn_host s)⟩

/-- A scheduled read of a `POLL` whose condition does not hold leaves the block and the `POLL`. -/
theorem step_of_poll_unmet {s : State} {off : WindowOffset} {mask value w : Word} {r : Resp} {ops : List HostOp}
    {rest : List Turn} (hh : s.host = .poll off mask value :: ops) (hs : s.schedule = .host :: rest)
    (hread : memRead off .four s = .read w r) (hunmet : w &&& mask ≠ value) :
    ∃ t, step s = .next t ∧ s.SameBlock t ∧ t.host = s.host ∧ t.schedule = rest ∧ t.response = some (.read w r) := by
  obtain ⟨t, hstep, hblock, hresp, hhost⟩ := step_of_poll (nextMove_of_host hs hh)
  rw [hread] at hresp hhost
  exact ⟨t, hstep, hblock, hhost.trans (hostAfter_poll_of_unmet off r _ hunmet), step_schedule hs hstep, hresp⟩

/-- A scheduled read of a `POLL` whose condition holds uses it up. -/
theorem step_of_poll_met {s : State} {off : WindowOffset} {mask value w : Word} {r : Resp} {ops : List HostOp}
    {rest : List Turn} (hh : s.host = .poll off mask value :: ops) (hs : s.schedule = .host :: rest)
    (hread : memRead off .four s = .read w r) (hmet : w &&& mask = value) :
    ∃ t, step s = .next t ∧ s.SameBlock t ∧ t.host = ops ∧ t.schedule = rest ∧ t.response = some (.read w r) := by
  obtain ⟨t, hstep, hblock, hresp, hhost⟩ := step_of_poll (nextMove_of_host hs hh)
  rw [hread] at hresp hhost
  rw [hostAfter_poll_of_met off r _ hmet, hh, List.tail_cons] at hhost
  exact ⟨t, hstep, hblock, hhost, step_schedule hs hstep, hresp⟩

/-- While its condition does not hold, a `POLL` takes every turn of the host and leaves the block as it is. -/
theorem run_of_poll_unmet {n : Nat} {s : State} {off : WindowOffset} {mask value w : Word} {r : Resp}
    {ops : List HostOp} {rest : List Turn} (hh : s.host = .poll off mask value :: ops)
    (hs : s.schedule = List.replicate n .host ++ rest) (hread : memRead off .four s = .read w r)
    (hunmet : w &&& mask ≠ value) :
    ∃ t, Sys2Proof.core.run n s = .next t ∧ s.SameBlock t ∧ t.host = s.host ∧ t.schedule = rest := by
  induction n generalizing s with
  | zero => exact ⟨s, run_zero s, .refl s, rfl, hs⟩
  | succ n ih =>
    obtain ⟨u, hstep, hblock, hhost, hsched, -⟩ := step_of_poll_unmet hh hs hread hunmet
    obtain ⟨t, hrun, hblock', hhost', hsched'⟩ :=
      ih (hhost.trans hh) hsched ((memRead_sameBlock hblock off .four).trans hread)
    exact ⟨t, (run_succ_of_next hstep).trans hrun, hblock.trans hblock', hhost'.trans hhost, hsched'⟩

/-- Settles O49: one read by `step_of_poll`, and the last of n + 1 unmet ones after the first n. -/
theorem pollReadsUntilItsConditionHolds : Obligations.PollReadsUntilItsConditionHolds := by
  refine fun s off mask value ops hh => ⟨fun hm => ?one, fun n rest w r hs hread =>
    ⟨fun hmet => ?met, fun hunmet => ?unmet⟩⟩
  case one =>
    obtain ⟨w, r, hread⟩ := memRead_eq_read off .four s
    obtain ⟨t, hstep, hblock, hresp, hhost⟩ := step_of_poll hm
    rw [hread] at hresp hhost
    refine ⟨t, w, r, hstep, hblock, hresp, hread, fun hmet => ?_, fun hunmet => ?_⟩
    · rw [hhost, hostAfter_poll_of_met off r _ hmet, hh, List.tail_cons]
    · rw [hhost, hostAfter_poll_of_unmet off r _ hunmet]
  case met =>
    obtain ⟨t, hstep, -, hhost, hsched, -⟩ := step_of_poll_met hh hs hread hmet
    exact ⟨t, hstep, hhost, hsched⟩
  case unmet =>
    rw [List.replicate_succ', List.append_assoc] at hs
    obtain ⟨u, hrun, hblock, hhost, hsched⟩ := run_of_poll_unmet hh hs hread hunmet
    obtain ⟨t, hstep, hblock', hhost', hsched', hresp⟩ := step_of_poll_unmet (hhost.trans hh) hsched
      ((memRead_sameBlock hblock off .four).trans hread) hunmet
    exact ⟨t, (run_add hrun 1).trans (run_one hstep), hblock.trans hblock', hhost'.trans hhost, hsched', hresp⟩

/-! ### The host's turns while a command is pending -/

/-- u is a state in which the command i of s is still pending, with the inputs and the results of s and MATCH = 0. -/
structure State.StillPending (s : State) (i : Instr) (u : State) : Prop where
  pending : u.pending = some i
  inputs : s.SameInputs u
  results : s.SameResults u
  matched : u.matched = false

/-- The host's turn neither completes a command nor resets the block. -/
theorem not_completes_and_not_resets_of_host {s : State} {rest : List Turn} (hs : s.schedule = .host :: rest) :
    (∀ i, ¬s.completes i) ∧ ¬s.resets := by
  have hmove : s.nextMove = s.hostMove := by rw [State.nextMove, hs]
  cases hh : s.host <;> simp [State.completes, State.resets, hmove, State.hostMove, hh]

/-- One turn of the host, whatever its operation: what it could change, it cannot while BUSY is 1 (20_memory.md R70). -/
theorem step_of_host_stillPending {s : State} {i : Instr} {rest : List Turn} (hp : s.pending = some i)
    (hm : s.matched = false) (hs : s.schedule = .host :: rest) :
    ∃ u, step s = .next u ∧ u.schedule = rest ∧ s.StillPending i u := by
  have hbusy : s.busy = true := by simp [busy_iff, hp]
  have hnot {P : Prop} (hidle : s.busy = false) : P := absurd (hidle.symm.trans hbusy) nofun
  obtain ⟨hcompletes, hresets⟩ := not_completes_and_not_resets_of_host hs
  obtain ⟨u, hstep⟩ := everyStepAnswersNext s
  obtain ⟨-, -, -, hpending, -⟩ := pendingFollowsAcceptanceAndCompletion s u hstep
  obtain ⟨hmatched, -⟩ := matchSetOnlyByValidate s u hstep
  refine ⟨u, hstep, step_schedule hs hstep, ?pending, ?inputs, ?results, ?matched⟩
  case pending => exact (hpending (fun ⟨_, hidle, _⟩ => hnot hidle) (fun ⟨i, hi⟩ => hcompletes i hi) hresets).trans hp
  case inputs =>
    exact inputsChangeOnlyByWritesClearOrReset s u hstep (fun ⟨hidle, _⟩ => hnot hidle) (hcompletes _) hresets
  case results => exact resultsChangeOnlyByTruncClearOrReset s u hstep (hcompletes _) (hcompletes _) hresets
  case matched => simpa [hcompletes, hm] using hmatched

theorem State.StillPending.refl {s : State} {i : Instr} (hp : s.pending = some i) (hm : s.matched = false) :
    s.StillPending i s :=
  ⟨hp, ⟨rfl, rfl, rfl, rfl, rfl⟩, ⟨rfl, rfl, rfl, rfl⟩, hm⟩

theorem State.StillPending.trans {s t u : State} {i : Instr} (hst : s.StillPending i t) (htu : t.StillPending i u) :
    s.StillPending i u :=
  ⟨htu.pending, hst.inputs.trans htu.inputs, hst.results.trans htu.results, htu.matched⟩

/-- Any number of the host's turns leave the pending command, its inputs and the results. -/
theorem run_host_stillPending {n : Nat} {s : State} {i : Instr} {rest : List Turn} (hp : s.pending = some i)
    (hm : s.matched = false) (hs : s.schedule = List.replicate n .host ++ rest) :
    ∃ u, Sys2Proof.core.run n s = .next u ∧ u.schedule = rest ∧ s.StillPending i u := by
  induction n generalizing s with
  | zero => exact ⟨s, run_zero s, hs, .refl hp hm⟩
  | succ n ih =>
    obtain ⟨t, hstep, hsched, hstill⟩ := step_of_host_stillPending hp hm hs
    obtain ⟨u, hrun, hsched', hstill'⟩ := ih hstill.pending hstill.matched hsched
    exact ⟨u, (run_succ_of_next hstep).trans hrun, hsched', hstill.trans hstill'⟩

/-- Equal inputs give equal truncations (40_truncation.md R106). -/
theorem truncation_congr {s t : State} (h : s.SameInputs t) : s.truncation = t.truncation := by
  obtain ⟨h1, h2, h3, -, -⟩ := h
  rw [State.truncation, State.truncation, State.digitCount, State.digitCount, h1, h2, h3]

/-- Settles O42: after the host's turns the command is still pending on the same inputs, and the engine's turn commits
their results. -/
theorem hostTurnsBeforeCompletionChangeNoResult : Obligations.HostTurnsBeforeCompletionChangeNoResult := by
  intro s i n rest hp hm hs
  obtain ⟨u, hrun, hsched, hpending, hinputs, hresults, hmatched⟩ := run_host_stillPending hp hm hs
  have hstep := step_of_engine hpending hsched
  have htrunc := truncation_congr hinputs
  have ⟨hhash, hdigits, _, _, _⟩ := hinputs
  refine ⟨u, _, hrun, (run_add hrun 1).trans (run_one hstep), hpending, hinputs, hresults, hmatched, rfl, rfl, ?sched,
    ?nop, ?trunc, ?validate, ?clear⟩
  case sched => cases i <;> rfl
  case nop => rintro rfl; exact ⟨hinputs, hresults, hmatched⟩
  case trunc => rintro rfl; rw [htrunc]; exact ⟨rfl, rfl, rfl, rfl, hinputs⟩
  case validate => rintro rfl; rw [verdict_congr hinputs]; exact ⟨rfl, hinputs, hresults⟩
  case clear => rintro rfl; exact ⟨⟨hhash.symm, hdigits.symm, rfl, rfl, rfl⟩, rfl, rfl, rfl, rfl⟩

/-! ### `WAIT` (30_encoding.md R89) -/

/-- Masking a word with 1 gives 0 exactly when it is even. -/
theorem and_one_eq_zero_iff (v : Word) : v &&& 0x00000001 = 0x00000000 ↔ v.toNat % 2 = 0 := by
  rw [← BitVec.toNat_inj, BitVec.toNat_and, ← Nat.and_one_is_mod]
  rfl

/-- Bit 0 of STATUS is BUSY (10_state.md R29). -/
theorem statusWord_mod_two (s : State) : s.statusWord.toNat % 2 = s.busy.toNat := by
  have := s.busy.toNat_lt
  rw [toNat_statusWord]
  omega

/-- The engine's turn with a command pending leaves none, and the host's operations. -/
theorem step_of_engine_pending {s : State} {i : Instr} {rest : List Turn} (hp : s.pending = some i)
    (hs : s.schedule = .engine :: rest) :
    ∃ t, step s = .next t ∧ t.pending = none ∧ t.host = s.host ∧ t.schedule = rest :=
  ⟨_, step_of_engine hp hs, rfl, by cases i <;> rfl, by cases i <;> rfl⟩

/-- Settles O43: the polls before the completion read BUSY = 1 and go on, and the one after it reads 0. -/
theorem waitEndsAfterCompletion : Obligations.WaitEndsAfterCompletion := by
  intro s i n ops rest hp hh hs
  have hbusy : s.busy = true := by simp [busy_iff, hp]
  have hunmet : s.statusWord &&& 0x00000001 ≠ 0x00000000 := by
    rw [ne_eq, and_one_eq_zero_iff, statusWord_mod_two, hbusy]
    decide
  obtain ⟨u, hrun, hblock, hhost, hsched⟩ := run_of_poll_unmet hh hs rfl hunmet
  have hpending : u.pending = some i := hblock.pending_eq.trans hp
  obtain ⟨v, hengine, hnone, hvhost, hvsched⟩ := step_of_engine_pending hpending hsched
  have hidle : v.busy = false := by simp [State.busy, hnone]
  have heven : v.statusWord.toNat % 2 = 0 := by rw [statusWord_mod_two, hidle, Bool.toNat_false]
  obtain ⟨t, hpoll, hvblock, hthost, htsched, hresp⟩ := step_of_poll_met (hvhost.trans (hhost.trans hh)) hvsched rfl
    ((and_one_eq_zero_iff _).2 heven)
  exact ⟨u, t, _, hrun, hhost, hpending,
    (run_add hrun 2).trans ((run_succ_of_next hengine).trans (run_one hpoll)), hthost, htsched,
    hvblock.pending_eq.trans hnone, hresp, heven⟩

end Sys2Proof.Machine
end

section
/-! PROOF. EXP is hidden (10_state.md R41): no operation of the machine reads it, so states that differ at most in it
take alike steps: O44. -/

namespace Sys2Proof.Machine

theorem State.EqButExp.exists_eq {s s' : State} (h : s.EqButExp s') : ∃ e, s' = { s with exp := e } := ⟨_, h.symm⟩

/-- A choice made on a condition that both states agree on. -/
theorem State.EqButExp.ite {c : Prop} [Decidable c] {a a' b b' : State} (ha : a.EqButExp a') (hb : b.EqButExp b') :
    (if c then a else b).EqButExp (if c then a' else b') := by
  split
  · exact ha
  · exact hb

/-- Both answer a next state, and the two differ at most in EXP. -/
def AnswerAlike (o o' : Host.Outcome State Fault Refusal) : Prop :=
  ∃ t t', o = .next t ∧ o' = .next t' ∧ t.EqButExp t'

theorem AnswerAlike.next {t t' : State} (h : t.EqButExp t') : AnswerAlike (.next t) (.next t') := ⟨t, t', rfl, rfl, h⟩

/-! ### The operations, on two states that differ at most in EXP -/

section Alike

variable {s s' : State} (h : s.EqButExp s')
include h

theorem submit_eqButExp (i : Instr) : (submit i s).EqButExp (submit i s') := by
  obtain ⟨_, rfl⟩ := h.exists_eq
  exact .ite rfl (.ite rfl (.ite rfl rfl))

theorem submitIllegal_eqButExp : (submitIllegal s).EqButExp (submitIllegal s') := by
  obtain ⟨_, rfl⟩ := h.exists_eq
  exact .ite rfl rfl

/-- A commit keeps EXP, or makes it that of the inputs alone. -/
theorem complete_eqButExp (i : Instr) : (complete i (commitOf i) s).EqButExp (complete i (commitOf i) s') := by
  obtain ⟨_, rfl⟩ := h.exists_eq
  exact .ite (by cases i <;> rfl) rfl

theorem exec_alike (i : Instr) : AnswerAlike (exec i s) (exec i s') := by
  have hmover : s'.mover = s.mover := by rw [← h]
  cases hm : s.mover with
  | host =>
    rw [exec_host i hm, exec_host i (hmover.trans hm)]
    exact .next (submit_eqButExp h i)
  | engine =>
    rw [exec_engine i hm, exec_engine i (hmover.trans hm)]
    exact .next (complete_eqButExp h i)

theorem writeSlot_eqButExp (slot : Slot) (v : Word) : (writeSlot slot v s).EqButExp (writeSlot slot v s') := by
  obtain ⟨_, rfl⟩ := h.exists_eq
  cases slot with
  | cfg | candlen | cand | digest => exact .ite rfl rfl
  | _ => rfl

theorem memWrite_alike (off : WindowOffset) (size : Size) (v : Word) :
    AnswerAlike (memWrite off size v s) (memWrite off size v s') := by
  unfold memWrite
  split
  · split
    · unfold commandWrite
      split
      · exact exec_alike h _
      · exact .next (submitIllegal_eqButExp h)
    · exact .next (writeSlot_eqButExp h _ v)
  · exact .next h

/-- No read of the window shows EXP. -/
theorem memRead_eq_of_eqButExp (off : WindowOffset) (size : Size) : memRead off size s' = memRead off size s := by
  obtain ⟨_, rfl⟩ := h.exists_eq
  refine memRead_congr (fun _ => ?_) size
  cases slotOf off <;> rfl

theorem resetEdge_eqButExp (op : Option HostOp) : (resetEdge op s).EqButExp (resetEdge op s') := by
  obtain ⟨_, rfl⟩ := h.exists_eq
  cases op <;> rfl

theorem perform_alike (m : Move) : AnswerAlike (perform m s) (perform m s') := by
  have hread := memRead_eq_of_eqButExp h
  obtain ⟨e, rfl⟩ := h.exists_eq
  cases m with
  | idle => exact .next rfl
  | bus op =>
    cases op with
    | read off size =>
      rw [perform, perform, busOp, busOp, hread]
      exact .next rfl
    | poll off mask value =>
      rw [perform, perform, busOp, busOp, hread]
      exact .next rfl
    | write off size v => exact memWrite_alike (by rfl) off size v
  | completion i => exact exec_alike (by rfl) i
  | reset op => exact .next (resetEdge_eqButExp (by rfl) op)

theorem nextMove_eq_of_eqButExp : s'.nextMove = s.nextMove := by
  obtain ⟨_, rfl⟩ := h.exists_eq
  rfl

theorem useTurn_eqButExp : (useTurn s).EqButExp (useTurn s') := by
  obtain ⟨_, rfl⟩ := h.exists_eq
  cases hs : s.schedule <;> simp [State.EqButExp, useTurn, hs]

theorem step_alike : AnswerAlike (step s) (step s') := by
  rw [step, step, takeTurn, takeTurn, nextMove_eq_of_eqButExp h]
  exact perform_alike (useTurn_eqButExp h) _

end Alike

/-- Runs of states that differ at most in EXP, step by step. -/
theorem run_alike {s s' : State} (h : s.EqButExp s') (n : Nat) :
    ∃ t t', Sys2Proof.core.run n s = .next t ∧ Sys2Proof.core.run n s' = .next t' ∧ t.EqButExp t' := by
  induction n generalizing s s' with
  | zero => exact ⟨s, s', run_zero s, run_zero s', h⟩
  | succ n ih =>
    obtain ⟨u, u', hstep, hstep', hu⟩ := step_alike h
    obtain ⟨t, t', hrun, hrun', ht⟩ := ih hu
    exact ⟨t, t', (run_succ_of_next hstep).trans hrun, (run_succ_of_next hstep').trans hrun', ht⟩

/-- Settles O44: runs stay alike by `run_alike`, and nothing a host can tell reads EXP. -/
theorem expIsUnobservable : Obligations.ExpIsUnobservable := by
  intro n s s' h
  obtain ⟨t, t', hrun, hrun', ht⟩ := run_alike h n
  have hread := memRead_eq_of_eqButExp ht
  exact ⟨t, t', hrun, hrun', ht, by rw [← ht], by rw [← ht]; rfl, fun off size => (hread off size).symm⟩

end Sys2Proof.Machine
end

section
/-! PROOF. Host programs (30_encoding.md R89, R90): what a run of stores leaves, and from it LDDIG, LDCAND, SETCFG and
ACK; the bus address of an offset: O45, O46, O47 and O48. -/

namespace Sys2Proof.Machine

/-! ### A run of stores -/

/-- An aligned 32-bit write to anything but CMD. -/
def IsStore (op : HostOp) : Prop := ∃ off v, op = .write off .four v ∧ off.toNat % 4 = 0 ∧ off ≠ 0x0C

/-- What a store makes of the block (20_memory.md R64). -/
def storeOp (s : State) : HostOp → State
  | .write off _ v => writeSlot (slotOf off) v s
  | .read _ _ => s
  | .poll _ _ _ => s

theorem storeOp_sameBlock {s t : State} (h : s.SameBlock t) (op : HostOp) :
    (storeOp s op).SameBlock (storeOp t op) := by
  cases op with
  | write off size v => exact writeSlot_sameBlock h _ v
  | read | poll => exact h

theorem foldl_storeOp_sameBlock {s t : State} (h : s.SameBlock t) (stores : List HostOp) :
    (stores.foldl storeOp s).SameBlock (stores.foldl storeOp t) := by
  induction stores generalizing s t with
  | nil => exact h
  | cons op stores ih => exact ih (storeOp_sameBlock h op)

/-- The host's turn with a store. -/
theorem step_of_host_store {s : State} {op : HostOp} {ops : List HostOp} {rest : List Turn} (hop : IsStore op)
    (hh : s.host = op :: ops) (hs : s.schedule = .host :: rest) :
    ∃ t, step s = .next t ∧ (storeOp s op).SameBlock t ∧ t.host = ops ∧ t.schedule = rest := by
  obtain ⟨off, v, rfl, ha, hc⟩ := hop
  have hserved : served off .four = true := by simp [served, ha]
  have hstep : step s = _ := step_of_host hs hh
  rw [busOp, memWrite, if_pos hserved, if_neg (mt slotOf_cmd.1 hc), hostAfter_write, hh, List.tail_cons] at hstep
  obtain ⟨-, hhost, hsched⟩ := writeSlot_keeps_ports (slotOf off) v
    { s with schedule := rest, mover := .host, response := some (.write (writeResp off .four)), host := ops }
  exact ⟨_, hstep, writeSlot_sameBlock (by rfl) _ v, hhost, hsched⟩

/-- The host's turns with stores at the head of its program. -/
theorem run_of_stores {stores : List HostOp} {s : State} {ops : List HostOp} {rest : List Turn}
    (hstores : ∀ op ∈ stores, IsStore op) (hh : s.host = stores ++ ops)
    (hs : s.schedule = List.replicate stores.length .host ++ rest) :
    ∃ t, Sys2Proof.core.run stores.length s = .next t ∧ (stores.foldl storeOp s).SameBlock t ∧ t.host = ops ∧
      t.schedule = rest := by
  induction stores generalizing s with
  | nil => exact ⟨s, run_zero s, .refl s, hh, hs⟩
  | cons op stores ih =>
    obtain ⟨hop, hstores⟩ := List.forall_mem_cons.1 hstores
    obtain ⟨u, hstep, hblock, hhost, hsched⟩ := step_of_host_store hop hh hs
    obtain ⟨t, hrun, hblock', hhost', hsched'⟩ := ih hstores hhost hsched
    exact ⟨t, (run_succ_of_next hstep).trans hrun, (foldl_storeOp_sameBlock hblock stores).trans hblock', hhost',
      hsched'⟩

/-! ### Loading a buffer -/

theorem length_loadWords (base n : Nat) (bytes : List Byte) : (loadWords base n bytes).length = n := by
  simp [loadWords]

theorem loadWords_succ (base n : Nat) (bytes : List Byte) :
    loadWords base (n + 1) bytes =
      loadWords base n bytes ++ [.write (BitVec.ofNat 8 (base + 4 * n)) .four (packWord bytes (4 * n))] := by
  simp [loadWords, List.range_succ]

theorem isStore_of_mem_loadWords {base n : Nat} {bytes : List Byte} {op : HostOp} (hbase : base % 4 = 0)
    (hlow : 0x40 ≤ base) (hhigh : base + 4 * n ≤ 256) (hop : op ∈ loadWords base n bytes) : IsStore op := by
  obtain ⟨k, hk, rfl⟩ := List.mem_map.1 hop
  have := List.mem_range.1 hk
  exact ⟨_, _, rfl, aligned_and_ne_cmd hbase hlow (by omega)⟩

/-- A buffer after its first n words were written with those of a byte string (30_encoding.md R89). -/
def putWords {size : Nat} (b : Vector Byte size) (bytes : List Byte) : Nat → Vector Byte size
  | 0 => b
  | n + 1 => putLanes (putWords b bytes n) (4 * n) (packWord bytes (4 * n))

/-- Byte j of the word of bytes k to k + 3. -/
theorem extract_packWord (bytes : List Byte) (k : Nat) {j : Nat} (hj : j < 4) :
    (packWord bytes k).extractLsb' (8 * j) 8 = bytes.getD (k + j) 0 := by
  have h := bytesOfWord_wordOfBytes (bytes.getD k 0) (bytes.getD (k + 1) 0) (bytes.getD (k + 2) 0)
    (bytes.getD (k + 3) 0)
  simp only [bytesOfWord, List.cons.injEq, and_true] at h
  obtain ⟨h0, h1, h2, h3⟩ := h
  interval_cases j
  exacts [h0, h1, h2, h3]

/-- The words written hold the string, 0x00 past its end, and the bytes above them are kept. -/
theorem byteAt_putWords {size n : Nat} (b : Vector Byte size) (bytes : List Byte) (hn : 4 * n ≤ size) (k : Nat) :
    byteAt (putWords b bytes n) k = if k < 4 * n then bytes.getD k 0 else byteAt b k := by
  induction n with
  | zero => rfl
  | succ n ih =>
    rw [putWords, byteAt_putLanes _ (by omega), ih (by omega)]
    by_cases hin : 4 * n ≤ k ∧ k ≤ 4 * n + 3
    · rw [if_pos hin, if_pos (by omega), extract_packWord _ _ (by omega), Nat.add_sub_cancel' hin.1]
    · rw [if_neg hin]
      exact if_congr (by omega) rfl rfl

/-! The registers that the pseudo-instructions name (30_encoding.md R89) stand at their places. -/

theorem slotOf_resolve_cfg : slotOf (Place.name .cfg 0).resolve = .cfg := rfl
theorem slotOf_resolve_status : slotOf (Place.name .status 0).resolve = .status := rfl
theorem slotOf_resolve_candlen : slotOf (Place.name .candlen 0).resolve = .candlen := rfl

/-! The first n words of a load, of which any one clears MATCH. -/

theorem foldl_loadWords_digest {s : State} (hidle : s.busy = false) (bytes : List Byte) {n : Nat} (hn : n ≤ 16) :
    (loadWords RegName.digest.windowBase n bytes).foldl storeOp s =
      { s with digest := putWords s.digest bytes n, matched := s.matched && n == 0 } := by
  induction n with
  | zero => simp [loadWords, putWords]
  | succ n ih =>
    rw [loadWords_succ, List.foldl_append, ih (by omega), List.foldl_cons, List.foldl_nil, storeOp,
      RegName.windowBase, slotOf_digest_word (by omega), writeSlot_digest_of_idle]
    · simp [putWords]
    · exact hidle

theorem foldl_loadWords_cand {s : State} (hidle : s.busy = false) (bytes : List Byte) {n : Nat} (hn : n ≤ 4) :
    (loadWords RegName.cand.windowBase n bytes).foldl storeOp s =
      { s with cand := putWords s.cand bytes n, matched := s.matched && n == 0 } := by
  induction n with
  | zero => simp [loadWords, putWords]
  | succ n ih =>
    rw [loadWords_succ, List.foldl_append, ih (by omega), List.foldl_cons, List.foldl_nil, storeOp,
      RegName.windowBase, slotOf_cand_word (by omega), writeSlot_cand_of_idle]
    · simp [putWords]
    · exact hidle

/-- Settles O45: the expansion is a run of stores, which leaves `putWords` in DIGEST. -/
theorem lddigLoadsTheDigest : Obligations.LddigLoadsTheDigest := by
  intro s bytes ops rest hwf hidle hh hs
  obtain ⟨hmul, hmax⟩ : bytes.length % 4 = 0 ∧ bytes.length ≤ 64 := by simpa [HostLine.wellFormed] using hwf
  have hlen := length_loadWords RegName.digest.windowBase (bytes.length / 4) bytes
  have hbytes : 4 * (bytes.length / 4) = bytes.length := by omega
  have hempty : (bytes.length / 4 == 0) = bytes.isEmpty := by
    rw [Bool.eq_iff_iff, beq_iff_eq, List.isEmpty_iff_length_eq_zero]
    omega
  obtain ⟨t, hrun, hblock, hhost, hsched⟩ := run_of_stores (stores := loadWords _ (bytes.length / 4) bytes)
    (fun op => isStore_of_mem_loadWords rfl (by decide) (by simp [RegName.windowBase]; omega)) hh (hlen ▸ hs)
  rw [hlen] at hrun
  rw [foldl_loadWords_digest hidle bytes (by omega), hempty] at hblock
  obtain ⟨_, _, _, _, _, rfl⟩ := hblock.exists_eq
  have hbyte := byteAt_putWords s.digest bytes (n := bytes.length / 4) (by simp [Config.digestMax]; omega)
  rw [hbytes] at hbyte
  exact ⟨_, hrun, hhost, hsched, fun k hk => (hbyte k).trans (if_pos hk),
    fun k hk => (hbyte k).trans (if_neg (by omega)), rfl⟩

/-- Settles O46: the expansion is a run of stores, which leaves `putWords` in CAND and then writes CANDLEN. -/
theorem ldcandLoadsTheCandidate : Obligations.LdcandLoadsTheCandidate := by
  intro s bytes ops rest hwf hidle hh hs
  have hmax : bytes.length ≤ 255 := by simpa [HostLine.wellFormed] using hwf
  have hwords : candWords bytes.length ≤ 4 := Nat.min_le_right _ _
  have hlen : ((HostLine.ldcand bytes).expand).length = candWords bytes.length + 1 := by
    simp [HostLine.expand, length_loadWords]
  have hstores : ∀ op ∈ (HostLine.ldcand bytes).expand, IsStore op := by
    intro op hop
    rcases List.mem_append.1 hop with hload | hlast
    · exact isStore_of_mem_loadWords rfl (by decide) (by simp [RegName.windowBase]; omega) hload
    · exact ⟨_, _, List.mem_singleton.1 hlast, by decide, by decide⟩
  obtain ⟨t, hrun, hblock, hhost, hsched⟩ := run_of_stores hstores hh (hlen ▸ hs)
  rw [hlen] at hrun
  rw [HostLine.expand, List.foldl_append, foldl_loadWords_cand hidle bytes hwords, List.foldl_cons, List.foldl_nil,
    storeOp, slotOf_resolve_candlen, writeSlot_candlen_of_idle] at hblock
  case hidle => exact hidle
  obtain ⟨_, _, _, _, _, rfl⟩ := hblock.exists_eq
  have hbyte := byteAt_putWords s.cand bytes (n := candWords bytes.length) (by simp [Config.candMax]; omega)
  refine ⟨_, hrun, hhost, hsched, fun k hk => (hbyte k).trans (if_pos hk),
    fun k hk => (hbyte k).trans (if_neg (Nat.not_lt.2 hk)), ?_, rfl⟩
  show ((BitVec.ofNat 32 bytes.length).extractLsb' 0 8).toNat = bytes.length
  rw [toNat_extract_zero, BitVec.toNat_ofNat]
  omega

/-! ### SETCFG and ACK -/

/-- The fields of SETCFG's word (30_encoding.md R89): h below 4 bits and d above. -/
theorem setcfg_word_fields {h d : Nat} (hfits : d <<< 4 ||| h < 2 ^ 32) :
    (BitVec.ofNat 32 (d <<< 4 ||| h)).toNat % 2 ^ 2 = h % 4 ∧
      (BitVec.ofNat 32 (d <<< 4 ||| h)).toNat / 2 ^ 4 % 2 ^ 4 = (d ||| h / 16) % 16 := by
  rw [BitVec.toNat_ofNat, Nat.mod_eq_of_lt hfits]
  constructor
  · rw [Nat.or_mod_two_pow, Nat.shiftLeft_eq, show d * 2 ^ 4 % 2 ^ 2 = 0 by omega, Nat.zero_or]
  · rw [← Nat.shiftRight_eq_div_pow, Nat.shiftRight_or_distrib, Nat.shiftLeft_shiftRight, Nat.shiftRight_eq_div_pow]
    rfl

/-- Settles O47: each expands to one store. -/
theorem setcfgAndAckWriteTheirFields : Obligations.SetcfgAndAckWriteTheirFields := by
  constructor
  · intro s h d ops rest hwf hidle hh hs
    have hfits : d <<< 4 ||| h < 2 ^ 32 := of_decide_eq_true hwf
    obtain ⟨hlow, hhigh⟩ := setcfg_word_fields hfits
    obtain ⟨t, hstep, hblock, hhost, -⟩ := step_of_host_store ⟨_, _, rfl, by decide, by decide⟩ hh hs
    rw [storeOp, slotOf_resolve_cfg, writeSlot_cfg_of_idle hidle] at hblock
    obtain ⟨_, _, _, _, _, rfl⟩ := hblock.exists_eq
    have hhash := (toNat_extract_zero _ 2).trans hlow
    have hdigits := (toNat_extract _ 4 4).trans hhigh
    refine ⟨_, hstep, hhost, hhash, hdigits, fun hhfits hdfits =>
      ⟨hhash.trans (Nat.mod_eq_of_lt hhfits), hdigits.trans ?_⟩, rfl⟩
    rw [Nat.div_eq_of_lt (by omega), Nat.or_zero, Nat.mod_eq_of_lt hdfits]
  · intro s ops rest hh hs
    obtain ⟨t, hstep, hblock, hhost, -⟩ := step_of_host_store ⟨_, _, rfl, by decide, by decide⟩ hh hs
    have hword : writeStatus 0x0000000A s = { s with done := false, wbusy := false } := by simp [writeStatus]
    rw [storeOp, slotOf_resolve_status, writeSlot, hword] at hblock
    exact ⟨t, hstep, hhost, hblock⟩

/-! ### Bus addresses -/

/-- Settles O48: BASE is a multiple of the 256 bytes of the window. -/
theorem busAddressReachesItsOffset : Obligations.BusAddressReachesItsOffset := by
  intro off
  have hlt : off.toNat < 256 := off.isLt
  refine ⟨?_, Nat.le_add_right .., ?_⟩
  · apply BitVec.eq_of_toNat_eq
    rw [windowOffset, BitVec.toNat_ofNat, busAddress, Config.base, Config.windowSize]
    omega
  · rw [busAddress]
    omega

end Sys2Proof.Machine
end
